-- ==== Sys2Proof/Word.lean ====
section
/-! DEFINITION. The word types of the COLM mode controller (00_scope.md R6, R11). -/

namespace Sys2Proof

/-- One byte of a buffer space. -/
abbrev Byte := BitVec 8

/-- A Block: 128 bits, bit 127 the most significant (00_scope.md R11). -/
abbrev Block := BitVec 128

/-- A length, index or address register: LENW = 64 bits (00_scope.md R7). -/
abbrev Len := BitVec 64

/-- A round-key schedule: NRK = 11 Blocks (00_scope.md R6, R8). -/
abbrev Sched := Vector Block 11

/-- `ZERO`, hard-wired to `0^128` (10_state.md R22). -/
def zeroBlock : Block := 0#128

end Sys2Proof
end

