-- ==== Sys2Proof/Syntax.lean ====
section
/-! DEFINITION. The words the controller decodes, its instructions (one constructor per row of the opcode
table), the names of its spaces, registers and phases, and the events of the host. -/

namespace Sys2Proof

/-- The four formats of a decoded word (30_encoding.md R80). -/
inductive Format
  | cmd | gfop | rhod | uop
deriving DecidableEq, Repr

/-- How many bits a word of a format has (30_encoding.md R80). -/
def Format.width : Format → Nat
  | .cmd => 3
  | .gfop => 2
  | .rhod => 1
  | .uop => 5

/-- One word, in its format (30_encoding.md R80). -/
inductive CtrlWord
  | cmd (bits : BitVec 3)
  | gfop (bits : BitVec 2)
  | rhod (bits : BitVec 1)
  | uop (bits : BitVec 5)
deriving DecidableEq, Repr

/-- Why a word decodes to no instruction (30_encoding.md R87). -/
inductive DecodeError
  /-- `gfop = 00`, never issued (R87). -/
  | gfopNeverIssued
  /-- `uop = 0` or `uop = 20 .. 31`, never generated (R87). -/
  | uopNeverGenerated (bits : BitVec 5)
  /-- A bit is set above the width of the word's format (R80: each format has one fixed length). -/
  | bitsAboveFormat (value : Nat)
  /-- No format has this many bits (R80). -/
  | noSuchFormat (nbits : Nat)
deriving DecidableEq, Repr

/-- The instructions: one constructor per row of spec/opcode_table.json, none with an operand field, since
every operand is implicit (30_encoding.md R80). -/
inductive Instr
  | colm0Enc | colm0Dec | colm127Enc | colm127Dec
  | colm0Enc3 | colm0Dec3 | colm127Enc3 | colm127Dec3
  | gfDbl | gfTpl | gfSep
  | rhoFwd | rhoInv
  | chkLen | init
  | macSeed | macFull | macFinal | macDone
  | blkEnc | blkDec | b3Enc | b3Dec
  | finOfs | finEnc | finDec
  | itagGen | itagChk
  | tagGen | tagChk | padChk
  | halt
deriving DecidableEq, Repr

/-- The seven buffer spaces (20_memory.md R50). -/
inductive Space
  | key | nonce | ad | input | tagIn | out | tagOut
deriving DecidableEq, Repr

/-- The spaces the host writes (20_memory.md R50). -/
inductive HostWriteSpace
  | key | nonce | ad | input | tagIn
deriving DecidableEq, Repr

/-- The spaces the host reads (20_memory.md R50, 10_state.md R32). -/
inductive HostReadSpace
  | out | tagOut
deriving DecidableEq, Repr

def HostWriteSpace.space : HostWriteSpace → Space
  | .key => .key
  | .nonce => .nonce
  | .ad => .ad
  | .input => .input
  | .tagIn => .tagIn

def HostReadSpace.space : HostReadSpace → Space
  | .out => .out
  | .tagOut => .tagOut

/-- The registers a host `WRITE` names (46_commands_sequencer.md R200). -/
inductive WritableReg
  | cmd | adlen | inlen | taginlen
deriving DecidableEq, Repr

/-- The registers a host `READ` names (10_state.md R32). -/
inductive ReadableReg
  | cmd | adlen | inlen | taginlen | busy | done | status | outlen | tagoutlen
deriving DecidableEq, Repr

/-- The host's events and the platform's `RESET` (46_commands_sequencer.md R200, 70_reset_and_hazards.md R260). -/
inductive HostEvent
  | write (reg : WritableReg) (value : Nat)
  | writeBuf (space : HostWriteSpace) (addr : Len) (bytes : List Byte)
  | start
  | read (reg : ReadableReg)
  | readBuf (space : HostReadSpace) (addr : Len) (count : Nat)
  | reset
deriving DecidableEq, Repr

/-- Whose move it is (10_state.md R20: two agents act on the state). -/
inductive Turn
  | controller
  | host (event : HostEvent)
deriving DecidableEq, Repr

/-- The sequencer phases with an entry in 30_encoding.md R85; codes 13 to 15 are never entered (R87). -/
inductive Phase
  | idle | check | init | macSeed | macFull | macFinal | macDone | msg | finOfs | final | tag | tagChk | padChk
deriving DecidableEq, Repr

/-- `PHASE[3:0]` (30_encoding.md R85). -/
def Phase.code : Phase → BitVec 4
  | .idle => 0
  | .check => 1
  | .init => 2
  | .macSeed => 3
  | .macFull => 4
  | .macFinal => 5
  | .macDone => 6
  | .msg => 7
  | .finOfs => 8
  | .final => 9
  | .tag => 10
  | .tagChk => 11
  | .padChk => 12

/-- The result of a command (30_encoding.md R82); codes 6 and 7 are never produced (R87). -/
inductive Status
  | success | invalidLength | tagMismatch | badPaddingMarker | badPaddingTail | intermediateTagMismatch
deriving DecidableEq, Repr

/-- `STATUS[2:0]` (30_encoding.md R82). -/
def Status.code : Status → BitVec 3
  | .success => 0
  | .invalidLength => 1
  | .tagMismatch => 2
  | .badPaddingMarker => 3
  | .badPaddingTail => 4
  | .intermediateTagMismatch => 5

/-- The Block working registers (10_state.md R21, without the hard-wired `ZERO`). -/
inductive BlockReg
  | l | dm | dc | da | seed | v | w | cs | t | pf
deriving DecidableEq, Repr

/-- The two round-key files (10_state.md R23). -/
inductive KeyFile
  | rke | rkd
deriving DecidableEq, Repr

/-- The sequencer's counters (10_state.md R25, R27). -/
inductive CountReg
  | aidx | idx | tagpos
deriving DecidableEq, Repr

end Sys2Proof
end

