-- ==== Sys2Proof/WellFormed.lean ====
section
/-! DEFINITION. Which words and which host events are well formed. An `Instr` has no operand field
(30_encoding.md R80), so every term of it is well formed; what can be ill formed is a word (R87) and the
address range of a host event (20_memory.md R50). -/

namespace Sys2Proof

/-- A word the sequencer or the host can supply (30_encoding.md R87). -/
def CtrlWord.wf : CtrlWord → Bool
  | .cmd _ => true
  | .gfop b => b != 0#2
  | .rhod _ => true
  | .uop b => decide (1 ≤ b.toNat) && decide (b.toNat ≤ 19)

/-- How many bytes a host may address in a space: KEY 16, NONCE 8, elsewhere every 64-bit address
(20_memory.md R50). -/
def Space.hostBytes : Space → Nat
  | .key => 16
  | .nonce => 8
  | _ => 2 ^ 64

/-- A host event whose bytes lie inside the space it names (20_memory.md R50). -/
def HostEvent.wf : HostEvent → Bool
  | .writeBuf sp a bytes => decide (a.toNat + bytes.length ≤ sp.space.hostBytes)
  | .readBuf sp a n => decide (a.toNat + n ≤ sp.space.hostBytes)
  | .write _ _ => true
  | .start => true
  | .read _ => true
  | .reset => true

end Sys2Proof
end

