-- ==== Sys2Proof/Decode.lean ====
section
/-! DEFINITION. The decoder (30_encoding.md R80 to R87), total and refusing by name, and the encoder. -/

namespace Sys2Proof

/-- The command word: `WIDE` is bit 2, `PERIODIC` bit 1, `DEC` bit 0 (30_encoding.md R81). -/
def decodeCmd (b : BitVec 3) : Instr :=
  match b.getLsbD 2, b.getLsbD 1, b.getLsbD 0 with
  | false, false, false => .colm0Enc
  | false, false, true => .colm0Dec
  | false, true, false => .colm127Enc
  | false, true, true => .colm127Dec
  | true, false, false => .colm0Enc3
  | true, false, true => .colm0Dec3
  | true, true, false => .colm127Enc3
  | true, true, true => .colm127Dec3

/-- The offset generator's operation select (30_encoding.md R83). -/
def decodeGfop (b : BitVec 2) : Except DecodeError Instr :=
  match b.toNat with
  | 1 => .ok .gfDbl
  | 2 => .ok .gfTpl
  | 3 => .ok .gfSep
  | _ => .error .gfopNeverIssued

/-- The rho unit's direction select (30_encoding.md R84). -/
def decodeRhod (b : BitVec 1) : Instr :=
  match b.getLsbD 0 with
  | false => .rhoFwd
  | true => .rhoInv

/-- The micro-operation number (30_encoding.md R86). -/
def decodeUop (b : BitVec 5) : Except DecodeError Instr :=
  match b.toNat with
  | 1 => .ok .chkLen
  | 2 => .ok .init
  | 3 => .ok .macSeed
  | 4 => .ok .macFull
  | 5 => .ok .macFinal
  | 6 => .ok .macDone
  | 7 => .ok .blkEnc
  | 8 => .ok .blkDec
  | 9 => .ok .b3Enc
  | 10 => .ok .b3Dec
  | 11 => .ok .finOfs
  | 12 => .ok .finEnc
  | 13 => .ok .finDec
  | 14 => .ok .itagGen
  | 15 => .ok .itagChk
  | 16 => .ok .tagGen
  | 17 => .ok .tagChk
  | 18 => .ok .padChk
  | 19 => .ok .halt
  | _ => .error (.uopNeverGenerated b)

/-- Decode a word in its format (30_encoding.md R80). -/
def decode : CtrlWord → Except DecodeError Instr
  | .cmd b => .ok (decodeCmd b)
  | .gfop b => decodeGfop b
  | .rhod b => .ok (decodeRhod b)
  | .uop b => decodeUop b

/-- The word of a format whose value is `w`, if `w` fits the format's width (30_encoding.md R80). -/
def wordOfBits (f : Format) (w : Nat) : Except DecodeError CtrlWord :=
  if w < 2 ^ f.width then
    match f with
    | .cmd => .ok (.cmd (BitVec.ofNat 3 w))
    | .gfop => .ok (.gfop (BitVec.ofNat 2 w))
    | .rhod => .ok (.rhod (BitVec.ofNat 1 w))
    | .uop => .ok (.uop (BitVec.ofNat 5 w))
  else .error (.bitsAboveFormat w)

/-- Which format a stored word has, from how many bits it is given in. The widths 1, 2, 3 and 5 name one format
each (30_encoding.md R80). A whole byte does not: the hardware stores no words in bytes, and who supplies a word
says its format. DESIGN CHOICE (log entry 6; unsafe only for a claim about byte-wide words): a byte is read as a
micro-operation number, and the byte 0, which is no micro-operation (R87), as the command word 000. -/
def formatOfBits (nbits w : Nat) : Option Format :=
  match nbits with
  | 1 => some .rhod
  | 2 => some .gfop
  | 3 => some .cmd
  | 5 => some .uop
  | 8 => if w = 0 then some .cmd else some .uop
  | _ => none

/-- Decode a word given as a number of `nbits` bits, refusing by name. -/
def decodeBits (nbits w : Nat) : Except DecodeError Instr :=
  match formatOfBits nbits w with
  | none => .error (.noSuchFormat nbits)
  | some f =>
    match wordOfBits f w with
    | .error e => .error e
    | .ok word => decode word

/-- The instruction the decoder reads from a table row's word, `none` where it refuses. -/
def decodeTableWord (nbits w : Nat) : Option Instr :=
  match decodeBits nbits w with
  | .ok i => some i
  | .error _ => none

/-- The word of an instruction (30_encoding.md R81, R83, R84, R86). -/
def encode : Instr → CtrlWord
  | .colm0Enc => .cmd 0b000#3
  | .colm0Dec => .cmd 0b001#3
  | .colm127Enc => .cmd 0b010#3
  | .colm127Dec => .cmd 0b011#3
  | .colm0Enc3 => .cmd 0b100#3
  | .colm0Dec3 => .cmd 0b101#3
  | .colm127Enc3 => .cmd 0b110#3
  | .colm127Dec3 => .cmd 0b111#3
  | .gfDbl => .gfop 0b01#2
  | .gfTpl => .gfop 0b10#2
  | .gfSep => .gfop 0b11#2
  | .rhoFwd => .rhod 0b0#1
  | .rhoInv => .rhod 0b1#1
  | .chkLen => .uop 1#5
  | .init => .uop 2#5
  | .macSeed => .uop 3#5
  | .macFull => .uop 4#5
  | .macFinal => .uop 5#5
  | .macDone => .uop 6#5
  | .blkEnc => .uop 7#5
  | .blkDec => .uop 8#5
  | .b3Enc => .uop 9#5
  | .b3Dec => .uop 10#5
  | .finOfs => .uop 11#5
  | .finEnc => .uop 12#5
  | .finDec => .uop 13#5
  | .itagGen => .uop 14#5
  | .itagChk => .uop 15#5
  | .tagGen => .uop 16#5
  | .tagChk => .uop 17#5
  | .padChk => .uop 18#5
  | .halt => .uop 19#5

end Sys2Proof
end

