-- ==== Sys2Proof/Config.lean ====
section
/-! DEFINITION. What an implementation fixes (00_scope.md R7): the block cipher and the two domain-separation
constants, and the free values the spec leaves open. None of them has a value in the model. -/

namespace Sys2Proof

/-- The implementation's parameters: the four cipher functions with the contract of 00_scope.md R8 and R9 (b),
and the two constants of 30_encoding.md R88 with the condition that they differ. -/
structure Setup where
  /-- `KS_ENC`: the key's encryption schedule (R8). -/
  ksEnc : Block → Sched
  /-- `KS_DEC`: the decryption schedule derived from the encryption schedule (R8). -/
  ksDec : Sched → Sched
  /-- `BC_ENC`: forward transform of one block (R8). -/
  bcEnc : Sched → Block → Block
  /-- `BC_DEC`: inverse transform of one block (R8). -/
  bcDec : Sched → Block → Block
  /-- The low 64 bits of the seed of a COLM0 command (R88). -/
  param0 : BitVec 64
  /-- The low 64 bits of the seed of a COLM127 command (R88). -/
  param127 : BitVec 64
  /-- R9 (b), first equation. -/
  dec_enc : ∀ k x, bcDec (ksDec (ksEnc k)) (bcEnc (ksEnc k) x) = x
  /-- R9 (b), second equation. -/
  enc_dec : ∀ k x, bcEnc (ksEnc k) (bcDec (ksDec (ksEnc k)) x) = x
  /-- `PARAM0 != PARAM127` (R7, R88). -/
  params_differ : param0 ≠ param127

/-- One setup, which shows only that the contract can be met. The machine does not use it. -/
def Setup.plain : Setup where
  ksEnc _ := Vector.replicate 11 0#128
  ksDec s := s
  bcEnc _ x := x
  bcDec _ x := x
  param0 := 0#64
  param127 := 1#64
  dec_enc _ _ := rfl
  enc_dec _ _ := rfl
  params_differ := by decide

/-- Some setup of which nothing is known but its contract (00_scope.md R9, R10: a model assumes nothing beyond
it). The bracketed argument says only that a setup exists. -/
opaque Config.someSetup [Inhabited Setup] : Setup

/-- The chip's cipher and constants: an open parameter (92_eei_decisions.md D2, D4; log entries 1, 2). -/
def Config.chip : Setup := @Config.someSetup ⟨Setup.plain⟩

/-- Free value: what a Block register holds where the spec says it is unspecified (10_state.md R35,
70_reset_and_hazards.md R261); the number is the state's `fresh` counter, so equal counters give equal values (log
entry 10). -/
opaque Config.freeBlock : Nat → BlockReg → Block

/-- Free value: an unspecified round-key file (10_state.md R35, 70_reset_and_hazards.md R261; log entry 10). -/
opaque Config.freeKeys : Nat → KeyFile → Sched

/-- Free value: an unspecified counter (70_reset_and_hazards.md R261; log entry 10). -/
opaque Config.freeCount : Nat → CountReg → Len

/-- Free value: an unspecified byte of a buffer (10_state.md R31, R35, 46_commands_sequencer.md R205; log
entries 12, 13): the generation of the buffer, the space and the address; equal arguments give equal bytes. -/
opaque Config.freeByte : Nat → Space → Nat → Byte

/-- Free value: `MLEN` of a decrypt whose `INLEN` is below 16, which 10_state.md R26 leaves undefined (log entry
17). -/
opaque Config.freeMlen : Len → Len

end Sys2Proof
end

