-- ==== Sys2Proof/Machine/State.lean ====
section
/-! DEFINITION. The state of the controller as plain data (10_state.md), the reasons a step can stop, and reset. -/

namespace Sys2Proof.Machine

/-- The host-written registers; the same shape serves for their latched copies (10_state.md R28, R29). -/
structure HostRegs where
  cmd : BitVec 3
  adlen : Len
  inlen : Len
  taginlen : Len
deriving DecidableEq, Repr

/-- The result lengths as the host reads them (10_state.md R28): HALT writes them, and they keep their values until then
(46_commands_sequencer.md R202; log entry 26). -/
structure ResultLens where
  outlen : Len
  tagoutlen : Len
deriving DecidableEq, Repr

/-- The working registers: those that hold an unspecified value once a command has halted (10_state.md R21, R23,
R25, R27; 70_reset_and_hazards.md R261). -/
structure Work where
  l : Block
  dm : Block
  dc : Block
  da : Block
  seed : Block
  v : Block
  w : Block
  cs : Block
  t : Block
  pf : Block
  rke : Sched
  rkd : Sched
  aidx : Len
  idx : Len
  tagpos : Len
deriving DecidableEq, Repr

/-- One buffer: the bytes known, addresses strictly rising, and the number of the set of free values that every
other address reads as (log entry 12). -/
structure Buffer where
  cells : List Host.Cell
  gen : Nat
deriving DecidableEq, Repr

/-- The seven buffer spaces (20_memory.md R50); disjoint by construction (R52). -/
structure Memory where
  key : Buffer
  nonce : Buffer
  ad : Buffer
  input : Buffer
  tagIn : Buffer
  out : Buffer
  tagOut : Buffer
deriving DecidableEq, Repr

/-- The MODEL's own wires: where a unit operation or HALT that is run by itself finds its operands and leaves its
results. The units have no state (30_encoding.md R83, R84), and no micro-operation reads or writes these (log
entry 7). -/
structure Ports where
  gfIn : Block
  gfOut : Block
  rhoIn : Block
  rhoOut : Block
  haltArg : Status
deriving DecidableEq, Repr

/-- What the last host READ or READBUF returned (log entry 20). -/
inductive Readout
  | nothing
  | value (v : Len)
  | bytes (bs : List Byte)
deriving DecidableEq, Repr

/-- A word of the opcode table given to the controller to be run by itself: its number of bits and its value (log
entry 5). -/
structure IssueWord where
  nbits : Nat
  bits : Nat
deriving DecidableEq, Repr

/-- The whole state. `host`, `latch`: R28, R29. `busy`, `done`, `status`: R28. `outlen`, `tagoutlen`: the result-length
registers of R27, which INIT clears; `reported`: the same two as the host reads them, R28 (log entry 26). `phase`: R25.
`work`: R21, R23, R25, R27. `mem`: 20_memory.md R50. The rest is the model's own: see INVENTORY.md. -/
structure State where
  host : HostRegs
  latch : HostRegs
  busy : Bool
  done : Bool
  status : Status
  outlen : Len
  tagoutlen : Len
  reported : ResultLens
  phase : Phase
  work : Work
  mem : Memory
  ports : Ports
  inbox : List Turn
  issueWord : Option IssueWord
  readout : Readout
  fresh : Nat
deriving DecidableEq, Repr

/-- Why the model stops with a fault. -/
inductive Fault
  /-- Raised by a micro-operation or a host buffer access that would touch bytes outside a buffer space
  (20_memory.md R50, R54). Safe: 20_memory.md R61 says the controller's own rules never make such an access, and
  defines nothing for one. -/
  | outsideSpace (space : Space) (addr : Nat)
deriving DecidableEq, Repr

/-- Why the model gives a step no meaning. -/
inductive Refusal
  /-- Raised by an arm of `exec` without a meaning. Safe. No arm of this model raises it. -/
  | notModelled (mnemonic : String)
  /-- Raised by `step` for a word that 30_encoding.md R87 says is never generated. Safe: no such word has an
  effect. -/
  | illegalWord (error : DecodeError)
  /-- Raised by a host access to a buffer while `BUSY = 1`, which the spec says a model refuses
  (70_reset_and_hazards.md R263, 93_implementation_defined.md U9). Safe. -/
  | bufferWhileBusy
  /-- Raised by the START of an encrypt command with `INLEN` above `2^64 - 17`, which the spec says a model refuses
  (70_reset_and_hazards.md R268, 93_implementation_defined.md U12). Safe. -/
  | encryptTooLong
deriving DecidableEq, Repr

/-- How the statements of a micro-operation go on (60_exceptions.md R236): to the next statement, to `HALT(status)`
as the tail of the step, or to a model fault. -/
inductive Flow
  | go (s : State)
  | halt (status : Status) (s : State)
  | fault (reason : Fault)
deriving DecidableEq, Repr

/-- Registers of zeros. -/
def Work.zero : Work where
  l := 0#128
  dm := 0#128
  dc := 0#128
  da := 0#128
  seed := 0#128
  v := 0#128
  w := 0#128
  cs := 0#128
  t := 0#128
  pf := 0#128
  rke := Vector.replicate 11 0#128
  rkd := Vector.replicate 11 0#128
  aidx := 0#64
  idx := 0#64
  tagpos := 0#64

/-- Host registers of zeros (10_state.md R35). -/
def HostRegs.zero : HostRegs := ⟨0#3, 0#64, 0#64, 0#64⟩

/-- A buffer of which no byte is known. -/
def Buffer.unknown (gen : Nat) : Buffer := ⟨[], gen⟩

/-- Seven buffers of which no byte is known (10_state.md R35). -/
def Memory.unknown (gen : Nat) : Memory where
  key := .unknown gen
  nonce := .unknown gen
  ad := .unknown gen
  input := .unknown gen
  tagIn := .unknown gen
  out := .unknown gen
  tagOut := .unknown gen

/-- Right after reset (10_state.md R35, 70_reset_and_hazards.md R260). The Block registers and the round-key files,
which R35 leaves unspecified, are zero: DESIGN CHOICE, unsafe (log entry 11). -/
def State.reset : State where
  host := .zero
  latch := .zero
  busy := false
  done := false
  status := .success
  outlen := 0#64
  tagoutlen := 0#64
  reported := ⟨0#64, 0#64⟩
  phase := .idle
  work := .zero
  mem := .unknown 0
  ports := ⟨0#128, 0#128, 0#128, 0#128, .success⟩
  inbox := []
  issueWord := none
  readout := .nothing
  fresh := 1

end Sys2Proof.Machine
end

