-- ==== Sys2Proof/Machine/Operands.lean ====
section
/-! DEFINITION. The implicit operands of the micro-operations: the latched command bits, the geometry of a command
(10_state.md R26) and the effective addresses (20_memory.md R69). -/

namespace Sys2Proof.Machine

/-- The latched `DEC` (30_encoding.md R81). -/
def State.dec (s : State) : Bool := s.latch.cmd.getLsbD 0

/-- The latched `PERIODIC` (30_encoding.md R81). -/
def State.periodic (s : State) : Bool := s.latch.cmd.getLsbD 1

/-- The latched `WIDE` (30_encoding.md R81). -/
def State.wide (s : State) : Bool := s.latch.cmd.getLsbD 2

/-- `MLEN` (10_state.md R26); a free value where R26 leaves it undefined (log entry 17). -/
def State.mlen (s : State) : Nat :=
  if s.dec then
    if 16 ≤ s.latch.inlen.toNat then s.latch.inlen.toNat - 16 else (Config.freeMlen s.latch.inlen).toNat
  else s.latch.inlen.toNat

/-- `R`: data bytes in a partial final block (10_state.md R26). -/
def State.rlen (s : State) : Nat := s.mlen % 16

/-- `NBLK`: message blocks (10_state.md R26). -/
def State.nblk (s : State) : Nat := (s.mlen + 15) / 16

/-- `NNF`: non-final blocks (10_state.md R26; natural subtraction gives 0 for an empty message). -/
def State.nnf (s : State) : Nat := s.nblk - 1

/-- `TLEN`: bytes of the final tag in the ciphertext stream (10_state.md R26). -/
def State.tlen (s : State) : Nat := if s.rlen = 0 then 16 else s.rlen

/-- `NTAG`: intermediate tags (10_state.md R26). -/
def State.ntag (s : State) : Nat := if s.periodic then s.nblk / 127 else 0

/-- `AFULL`: full associated-data blocks (10_state.md R26). -/
def State.afull (s : State) : Nat := s.latch.adlen.toNat / 16

/-- `AR`: leftover associated-data bytes (10_state.md R26). -/
def State.arlen (s : State) : Nat := s.latch.adlen.toNat % 16

/-- The size of a space during a command (20_memory.md R50), no larger than the addresses of a space are many. -/
def State.spaceSize (s : State) : Space → Nat
  | .key => 16
  | .nonce => 8
  | .ad => s.latch.adlen.toNat
  | .input => s.latch.inlen.toNat
  | .tagIn => s.latch.taginlen.toNat
  | .out => min (if s.dec then s.mlen else s.mlen + 16) (2 ^ 64)
  | .tagOut => 16 * s.ntag

/-- Where message block `i` starts in IN and OUT: `16 * (i - 1)` on LENW-bit values (20_memory.md R51, R69). -/
def blockAddr (i : Len) : Nat := (16#64 * (i - 1#64)).toNat

/-- Where associated-data block `AIDX + 1` starts: `16 * AIDX` on LENW-bit values (20_memory.md R51, 42_ad_mac.md
R131). -/
def adAddr (i : Len) : Nat := (16#64 * i).toNat

/-- `cadence(i)` of the running command (44_colm127.md R160). -/
def State.cadence (s : State) (i : Len) : Bool := s.periodic && i.toNat % 127 == 0

/-- At least three non-final blocks remain, `NNF - IDX + 1 >= 3` (45_batched3.md R180). -/
def State.groupReady (s : State) : Bool := decide (s.work.idx.toNat + 2 ≤ s.nnf)

end Sys2Proof.Machine
end

