-- ==== Sys2Proof/Machine/Flags.lean ====
section
/-! DEFINITION. `STATUS` is the only condition code (10_state.md R28); these are the tests that decide it
(60_exceptions.md R231 to R235). -/

namespace Sys2Proof.Machine

/-- The memory image of a Block: byte `i` is bits `127 - 8i : 120 - 8i` (20_memory.md R53, R56). -/
def bytesOfBlock (x : Block) : List Byte := (List.range 16).map fun i => x.extractLsb' (120 - 8 * i) 8

/-- `INLEN < 16` on decrypt (R231, 46_commands_sequencer.md R211). -/
def lengthTooShort (s : State) : Bool := s.dec && decide (s.latch.inlen.toNat < 16)

/-- TAGIN has fewer than `TAGPOS + 16` bytes (R235, 44_colm127.md R162). -/
def tagStreamTooShort (s : State) : Bool := decide (s.latch.taginlen.toNat < s.work.tagpos.toNat + 16)

/-- The received tag bytes equal the first `TLEN` bytes of the memory image of `T` (R232, 43_colm0.md R150). -/
def tagMatches (s : State) (received : List Byte) : Bool := received == (bytesOfBlock s.work.t).take s.tlen

/-- What the padding of `PF` says: byte `R` must be `0x80` (R233), then bytes `R+1 .. 15` must be zero (R234); the
marker is tested first (43_colm0.md R151). -/
def paddingStatus (s : State) : Status :=
  let m := bytesOfBlock s.work.pf
  if m[s.rlen]? ≠ some 0x80#8 then .badPaddingMarker
  else if (m.drop (s.rlen + 1)).any (· != 0x00#8) then .badPaddingTail
  else .success

end Sys2Proof.Machine
end

