-- ==== Sys2Proof/Machine/Gf.lean ====
section
/-! DEFINITION. The Galois-field offset generator: its three functions and its three operations (40_gf_offset.md R100
to R102). -/

namespace Sys2Proof.Machine

/-- `dbl(x)`: shift left by one; if bit 127 was set, XOR `0x87` into the low byte (R100). -/
def dbl (x : Block) : Block := (x <<< 1) ^^^ (if x.getLsbD 127 then 0x87#128 else 0#128)

/-- `tpl(x) = dbl(x) ^ x` (R101). -/
def tpl (x : Block) : Block := dbl x ^^^ x

/-- `sep(x) = dbl(dbl(x)) ^ dbl(x) ^ x` (R102). -/
def sep (x : Block) : Block := dbl (dbl x) ^^^ dbl x ^^^ x

/-- The offset generator run by itself: one Block in, one Block out, no state (30_encoding.md R83). -/
def runGf (f : Block → Block) (s : State) : Host.Outcome State Fault Refusal :=
  .next { s with ports := { s.ports with gfOut := f s.ports.gfIn } }

/-- `GF.DBL` (R100). -/
def execGfDbl (s : State) : Host.Outcome State Fault Refusal := runGf dbl s

/-- `GF.TPL` (R101). -/
def execGfTpl (s : State) : Host.Outcome State Fault Refusal := runGf tpl s

/-- `GF.SEP` (R102). -/
def execGfSep (s : State) : Host.Outcome State Fault Refusal := runGf sep s

end Sys2Proof.Machine
end

