-- ==== Sys2Proof/Machine/Rho.lean ====
section
/-! DEFINITION. The rho mixing transform: its two functions and its two operations (41_rho.md R120, R121). -/

namespace Sys2Proof.Machine

/-- `rho(x, s) = (y, s')`: `w = dbl(s) ^ x; y = w ^ s; s' = w` (R120). -/
def rho (x s : Block) : Block × Block :=
  let w := dbl s ^^^ x
  (w ^^^ s, w)

/-- `rho_inv(y, s) = (x, s')`: `w = dbl(s); s' = s ^ y; x = w ^ s'` (R121). -/
def rhoInv (y s : Block) : Block × Block :=
  let w := dbl s
  let s' := s ^^^ y
  (w ^^^ s', s')

/-- The rho unit run by itself: the block value from its port, the chaining state from `W`, which takes the new
chaining state (R120: "In every use `s` is register `W`"; 30_encoding.md R84). -/
def runRho (f : Block → Block → Block × Block) (s : State) : Host.Outcome State Fault Refusal :=
  let r := f s.ports.rhoIn s.work.w
  .next { s with work := { s.work with w := r.2 }, ports := { s.ports with rhoOut := r.1 } }

/-- `RHO.FWD` (R120). -/
def execRhoFwd (s : State) : Host.Outcome State Fault Refusal := runRho rho s

/-- `RHO.INV` (R121). -/
def execRhoInv (s : State) : Host.Outcome State Fault Refusal := runRho rhoInv s

end Sys2Proof.Machine
end

