-- ==== Sys2Proof/Machine/Ops.lean ====
section
/-! DEFINITION. The named operations: buffers and blocks (20_memory.md R53 to R57), unspecified values
(70_reset_and_hazards.md R261), taking a failure and completing (60_exceptions.md R236, 46_commands_sequencer.md R212),
and the two-pass block functions (43_colm0.md R140). -/

namespace Sys2Proof.Machine

/-! ## Buffers -/

/-- The byte listed at an address. -/
def cellAt : List Host.Cell → Nat → Option Byte
  | [], _ => none
  | (b, v) :: rest, a => if a = b then some v else cellAt rest a

/-- List a byte at an address, keeping the addresses rising. -/
def setCell : List Host.Cell → Nat → Byte → List Host.Cell
  | [], a, v => [(a, v)]
  | (b, u) :: rest, a, v =>
    if a < b then (a, v) :: (b, u) :: rest
    else if a = b then (a, v) :: rest
    else (b, u) :: setCell rest a v

/-- The canonical form of a list of bytes: addresses strictly rising. -/
def risingCells : List Host.Cell → Bool
  | [] => true
  | (a, _) :: rest => rest.all (fun c => decide (a < c.1)) && risingCells rest

/-- The canonical form of a buffer: addresses strictly rising and 64 bits wide (20_memory.md R50). An unlisted
address reads as a free value, which no listed byte can be known to equal. -/
def Buffer.wf (b : Buffer) : Bool := risingCells b.cells && b.cells.all fun c => decide (c.1 < 2 ^ 64)

/-- The canonical form of all seven buffers. -/
def Memory.wf (m : Memory) : Bool :=
  m.key.wf && m.nonce.wf && m.ad.wf && m.input.wf && m.tagIn.wf && m.out.wf && m.tagOut.wf

/-- The buffer of a space. -/
def Memory.buf (m : Memory) : Space → Buffer
  | .key => m.key
  | .nonce => m.nonce
  | .ad => m.ad
  | .input => m.input
  | .tagIn => m.tagIn
  | .out => m.out
  | .tagOut => m.tagOut

/-- Replace the buffer of a space. -/
def Memory.setBuf (m : Memory) (sp : Space) (b : Buffer) : Memory :=
  match sp with
  | .key => { m with key := b }
  | .nonce => { m with nonce := b }
  | .ad => { m with ad := b }
  | .input => { m with input := b }
  | .tagIn => { m with tagIn := b }
  | .out => { m with out := b }
  | .tagOut => { m with tagOut := b }

/-- Read one byte: the listed one, or an unspecified one (10_state.md R35, R31; log entry 12). -/
def Memory.readByte (m : Memory) (sp : Space) (a : Nat) : Byte :=
  (cellAt (m.buf sp).cells a).getD (Config.freeByte (m.buf sp).gen sp a)

/-- Write one byte. -/
def Memory.writeByte (m : Memory) (sp : Space) (a : Nat) (v : Byte) : Memory :=
  m.setBuf sp { m.buf sp with cells := setCell (m.buf sp).cells a v }

/-- `MemRead(SPACE, addr, n)`: lowest address first (00_scope.md R11). -/
def Memory.read (m : Memory) (sp : Space) (a n : Nat) : List Byte :=
  (List.range n).map fun i => m.readByte sp (a + i)

/-- `MemWrite(SPACE, addr, n, bytes)` (00_scope.md R11). -/
def Memory.write (m : Memory) (sp : Space) (a : Nat) : List Byte → Memory
  | [] => m
  | v :: rest => (m.writeByte sp a v).write sp (a + 1) rest

/-- Keep the bytes below `n` that are listed; every other byte becomes unspecified, anew (46_commands_sequencer.md
R205; log entries 12, 13). -/
def Buffer.forgetFrom (b : Buffer) (n gen : Nat) : Buffer :=
  ⟨b.cells.filter fun c => decide (c.1 < n), gen⟩

/-! ## Blocks -/

/-- `m[0] || m[1] || ...`: the first byte most significant (20_memory.md R53, R54). -/
def blockOfBytes (bs : List Byte) : Block := bs.foldl (fun acc b => (acc <<< 8) ||| b.setWidth 128) 0#128

/-- Data bytes, then one `0x80`, then zero bytes up to 16 (20_memory.md R55, 30_encoding.md R89). -/
def padBytes (bs : List Byte) : List Byte := bs ++ 0x80#8 :: List.replicate (15 - bs.length) 0x00#8

/-- `LoadBlock(SPACE, a)` (20_memory.md R54). -/
def Memory.loadBlock (m : Memory) (sp : Space) (a : Nat) : Block := blockOfBytes (m.read sp a 16)

/-- `LoadPartial(SPACE, a, n)` (20_memory.md R55). -/
def Memory.loadPartial (m : Memory) (sp : Space) (a n : Nat) : Block := blockOfBytes (padBytes (m.read sp a n))

/-- `StorePartial(SPACE, a, x, n)`; `StoreBlock` is `n = 16` (20_memory.md R56, R57). -/
def Memory.storeBlock (m : Memory) (sp : Space) (a : Nat) (x : Block) (n : Nat) : Memory :=
  m.write sp a ((bytesOfBlock x).take n)

/-! ## Flow -/

/-- The next statement of a micro-operation; none after a HALT or a fault (60_exceptions.md R236 (1)). -/
def Flow.andThen (f : Flow) (k : State → Flow) : Flow :=
  match f with
  | .go s => k s
  | .halt st s => .halt st s
  | .fault r => .fault r

/-- Go on only if the `n` bytes at `a` lie inside the space (20_memory.md R54, R61). -/
def inSpace (s : State) (sp : Space) (a n : Nat) (k : Flow) : Flow :=
  if a + n ≤ s.spaceSize sp then k else .fault (.outsideSpace sp a)

/-- The statement `x = LoadBlock(SPACE, a)`. -/
def loadBlock (s : State) (sp : Space) (a : Nat) (k : Block → Flow) : Flow :=
  inSpace s sp a 16 (k (s.mem.loadBlock sp a))

/-- The statement `x = LoadPartial(SPACE, a, n)`. -/
def loadPartial (s : State) (sp : Space) (a n : Nat) (k : Block → Flow) : Flow :=
  inSpace s sp a n (k (s.mem.loadPartial sp a n))

/-- The statement `x = MemRead(SPACE, a, n)`. -/
def readBytes (s : State) (sp : Space) (a n : Nat) (k : List Byte → Flow) : Flow :=
  inSpace s sp a n (k (s.mem.read sp a n))

/-- The statement `StorePartial(SPACE, a, x, n)`. -/
def storePartial (s : State) (sp : Space) (a : Nat) (x : Block) (n : Nat) : Flow :=
  inSpace s sp a n (.go { s with mem := s.mem.storeBlock sp a x n })

/-- The statement `StoreBlock(SPACE, a, x)`. -/
def storeBlock (s : State) (sp : Space) (a : Nat) (x : Block) : Flow := storePartial s sp a x 16

/-! ## Unspecified values, completion, failure, reset -/

/-- Working registers of which nothing is known (70_reset_and_hazards.md R261; log entry 10). -/
def Work.unspecified (n : Nat) : Work where
  l := Config.freeBlock n .l
  dm := Config.freeBlock n .dm
  dc := Config.freeBlock n .dc
  da := Config.freeBlock n .da
  seed := Config.freeBlock n .seed
  v := Config.freeBlock n .v
  w := Config.freeBlock n .w
  cs := Config.freeBlock n .cs
  t := Config.freeBlock n .t
  pf := Config.freeBlock n .pf
  rke := Config.freeKeys n .rke
  rkd := Config.freeKeys n .rkd
  aidx := Config.freeCount n .aidx
  idx := Config.freeCount n .idx
  tagpos := Config.freeCount n .tagpos

/-- `OUTLEN` after HALT (46_commands_sequencer.md R212). -/
def haltOutlen (st : Status) (s : State) : Len :=
  if st = .success then BitVec.ofNat 64 (if s.dec then s.mlen else s.mlen + 16) else 0#64

/-- `TAGOUTLEN` after HALT (46_commands_sequencer.md R212). -/
def haltTagoutlen (st : Status) (s : State) : Len :=
  if st = .success ∧ s.dec = false ∧ s.periodic = true then BitVec.ofNat 64 (16 * s.ntag) else 0#64

/-- `HALT(st)` (46_commands_sequencer.md R212), and so the entry of a failure (60_exceptions.md R236): the status and
the result lengths, those the host reads among them (R202; log entry 26), `BUSY` 0, `DONE` 1, `PHASE` IDLE; OUT and TAGOUT beyond the reported lengths become unspecified
(R205), which is all of OUT after a failure (10_state.md R31), and so do the working registers
(70_reset_and_hazards.md R261). Nothing else is saved; there is no return from a failure (R241). DESIGN CHOICE (log
entries 10, 13; unsafe for a claim that compares two runs): the free values taken here depend on the counter `fresh`
only, so two runs that halt with equal counters hold equal ones; the spec lets OUT after a failure differ between the
engines (45_batched3.md R187). -/
def haltWith (st : Status) (s : State) : State :=
  { s with
    status := st
    outlen := haltOutlen st s
    tagoutlen := haltTagoutlen st s
    reported := ⟨haltOutlen st s, haltTagoutlen st s⟩
    busy := false
    done := true
    phase := .idle
    work := .unspecified s.fresh
    mem := { s.mem with
      out := s.mem.out.forgetFrom (haltOutlen st s).toNat s.fresh
      tagOut := s.mem.tagOut.forgetFrom (haltTagoutlen st s).toNat s.fresh }
    fresh := s.fresh + 1 }

/-- The end of a micro-operation: HALT executes as the tail of the step (46_commands_sequencer.md R210). -/
def Flow.finish (f : Flow) : Host.Outcome State Fault Refusal :=
  match f with
  | .go s => .next s
  | .halt st s => .next (haltWith st s)
  | .fault r => .fault r

/-- `RESET` (70_reset_and_hazards.md R260): the values of 10_state.md R35, with the working registers and every
buffer byte unspecified (93_implementation_defined.md U10; log entry 10). The model's own fields stay. -/
def resetEvent (s : State) : State :=
  { State.reset with
    work := { Work.unspecified s.fresh with aidx := 0#64, idx := 0#64, tagpos := 0#64 }
    mem := .unknown s.fresh
    ports := s.ports
    inbox := s.inbox
    issueWord := s.issueWord
    readout := s.readout
    fresh := s.fresh + 1 }

/-! ## Offsets and the two-pass block functions -/

/-- `DM <- f(DM) ; DC <- f(DC)` (40_gf_offset.md R106). -/
def offsets (f : Block → Block) (s : State) : State :=
  { s with work := { s.work with dm := f s.work.dm, dc := f s.work.dc } }

/-- `E(x) = BC_ENC(RKE, x)` (00_scope.md R8). -/
def encipher (c : Setup) (s : State) (x : Block) : Block := c.bcEnc s.work.rke x

/-- `D(y) = BC_DEC(RKD, y)` (00_scope.md R8). -/
def decipher (c : Setup) (s : State) (y : Block) : Block := c.bcDec s.work.rkd y

/-- `EncBlock(p)` (43_colm0.md R140): the result and the state with the new `W`. -/
def encBlock (c : Setup) (p : Block) (s : State) : Block × State :=
  let r := rho (encipher c s (p ^^^ s.work.dm)) s.work.w
  (encipher c s r.1 ^^^ s.work.dc, { s with work := { s.work with w := r.2 } })

/-- `DecBlock(c)` (43_colm0.md R140): the result and the state with the new `W`. -/
def decBlock (c : Setup) (x : Block) (s : State) : Block × State :=
  let r := rhoInv (decipher c s (x ^^^ s.work.dc)) s.work.w
  (decipher c s r.1 ^^^ s.work.dm, { s with work := { s.work with w := r.2 } })

/-- `CS <- CS ^ p` (43_colm0.md R144). -/
def accumulate (p : Block) (s : State) : State :=
  { s with work := { s.work with cs := s.work.cs ^^^ p } }

/-- `IDX <- IDX + n ; PHASE <- MSG if IDX <= NNF else FINOFS` (43_colm0.md R141, R148; 45_batched3.md R181, R182). -/
def advanceMsg (n : Len) (s : State) : State :=
  let idx := s.work.idx + n
  { s with work := { s.work with idx := idx }, phase := if idx.toNat ≤ s.nnf then .msg else .finOfs }

/-- `PHASE <- p`. -/
def goTo (p : Phase) (s : State) : Flow := .go { s with phase := p }

end Sys2Proof.Machine
end

