-- ==== Sys2Proof/Machine/Colm127.lean ====
section
/-! DEFINITION. The COLM127 engine: producing and checking one intermediate tag (44_colm127.md R161, R162). -/

namespace Sys2Proof.Machine

/-- `DC <- dbl(DC)`, the extra doubling (44_colm127.md R161, R162). -/
def extraDouble (s : State) : State := { s with work := { s.work with dc := dbl s.work.dc } }

/-- `TAGPOS <- TAGPOS + 16` (44_colm127.md R161, R162). -/
def advanceTagpos (s : State) : State := { s with work := { s.work with tagpos := s.work.tagpos + 16#64 } }

/-- The intermediate tag under the ciphertext offset `dc`: `E(W) ^ DC` (44_colm127.md R161). -/
def itagValue (c : Setup) (dc : Block) (s : State) : Block := encipher c s s.work.w ^^^ dc

/-- `ITAG.GEN` (44_colm127.md R161). -/
def itagGenStep (c : Setup) (s : State) : Flow :=
  let t := extraDouble s
  (storeBlock t .tagOut t.work.tagpos.toNat (itagValue c t.work.dc t)).andThen fun u => .go (advanceTagpos u)

/-- `ITAG.GEN` as an instruction (44_colm127.md R161). -/
def execItagGen (s : State) : Host.Outcome State Fault Refusal := (itagGenStep Config.chip s).finish

/-- The check of one intermediate tag under the ciphertext offset `dc`: too short a stream, or other bytes, raise
`IntermediateTagMismatch` (44_colm127.md R162, 45_batched3.md R182). -/
def itagCompare (c : Setup) (dc : Block) (s : State) : Flow :=
  if tagStreamTooShort s then .halt .intermediateTagMismatch s
  else readBytes s .tagIn s.work.tagpos.toNat 16 fun received =>
    if received = bytesOfBlock (itagValue c dc s) then .go (advanceTagpos s)
    else .halt .intermediateTagMismatch s

/-- `ITAG.CHK` (44_colm127.md R162). -/
def itagChkStep (c : Setup) (s : State) : Flow :=
  let t := extraDouble s
  itagCompare c t.work.dc t

/-- `ITAG.CHK` as an instruction (44_colm127.md R162). -/
def execItagChk (s : State) : Host.Outcome State Fault Refusal := (itagChkStep Config.chip s).finish

/-- The cadence part of an encrypt step for block `i` (44_colm127.md R163). -/
def cadenceGen (c : Setup) (i : Len) (s : State) : Flow := if s.cadence i then itagGenStep c s else .go s

/-- The cadence part of a decrypt step for block `i` (44_colm127.md R163). -/
def cadenceChk (c : Setup) (i : Len) (s : State) : Flow := if s.cadence i then itagChkStep c s else .go s

end Sys2Proof.Machine
end

