-- ==== Sys2Proof/Machine/Batched.lean ====
section
/-! DEFINITION. The 3-wide batched pipelines (45_batched3.md R181, R182). The lane temporaries OM, OC, CAD, X of
10_state.md R24 are local names. -/

namespace Sys2Proof.Machine

/-- `BC_ENC3`: lane-wise `BC_ENC` (00_scope.md R8). -/
def encipher3 (c : Setup) (s : State) (x : Block × Block × Block) : Block × Block × Block :=
  (encipher c s x.1, encipher c s x.2.1, encipher c s x.2.2)

/-- `BC_DEC3`: lane-wise `BC_DEC` (00_scope.md R8). -/
def decipher3 (c : Setup) (s : State) (x : Block × Block × Block) : Block × Block × Block :=
  (decipher c s x.1, decipher c s x.2.1, decipher c s x.2.2)

/-- The three blocks of the group, read in index order (45_batched3.md R181, R182). -/
def loadGroup (s : State) (k : Block × Block × Block → Flow) : Flow :=
  loadBlock s .input (blockAddr s.work.idx) fun a =>
    loadBlock s .input (blockAddr (s.work.idx + 1#64)) fun b =>
      loadBlock s .input (blockAddr (s.work.idx + 2#64)) fun d => k (a, b, d)

/-- The three results, stored in index order (45_batched3.md R181, R182; 20_memory.md R63). -/
def storeGroup (x : Block × Block × Block) (s : State) : Flow :=
  (storeBlock s .out (blockAddr s.work.idx) x.1).andThen fun s1 =>
    (storeBlock s1 .out (blockAddr (s1.work.idx + 1#64)) x.2.1).andThen fun s2 =>
      storeBlock s2 .out (blockAddr (s2.work.idx + 2#64)) x.2.2

/-- `CS` takes the three plaintext blocks (45_batched3.md R181, R182). -/
def accumulateGroup (p : Block × Block × Block) (s : State) : State :=
  accumulate p.2.2 (accumulate p.2.1 (accumulate p.1 s))

/-- One lane of the sequential middle of B3.ENC, for block `i` (45_batched3.md R181): the ciphertext offset, the
intermediate tag at a cadence point, then rho against `W`. The continuation takes `OC` and the lane's block. -/
def encLane (c : Setup) (i : Len) (x : Block) (s : State) (k : Block → Block → State → Flow) : Flow :=
  (cadenceGen c i (extraDouble s)).andThen fun t =>
    let r := rho x t.work.w
    k t.work.dc r.1 { t with work := { t.work with w := r.2 } }

/-- `B3.ENC` (45_batched3.md R181). -/
def b3EncStep (c : Setup) (s : State) : Flow :=
  let om0 := dbl s.work.dm
  let om1 := dbl om0
  let om2 := dbl om1
  let s0 := { s with work := { s.work with dm := om2 } }
  loadGroup s0 fun p =>
    let x := encipher3 c s0 (p.1 ^^^ om0, p.2.1 ^^^ om1, p.2.2 ^^^ om2)
    encLane c s0.work.idx x.1 s0 fun oc0 y0 s1 =>
      encLane c (s1.work.idx + 1#64) x.2.1 s1 fun oc1 y1 s2 =>
        encLane c (s2.work.idx + 2#64) x.2.2 s2 fun oc2 y2 s3 =>
          let z := encipher3 c s3 (y0, y1, y2)
          (storeGroup (z.1 ^^^ oc0, z.2.1 ^^^ oc1, z.2.2 ^^^ oc2) s3).andThen fun s4 =>
            .go (advanceMsg 3#64 (accumulateGroup p s4))

/-- `B3.ENC` as an instruction (45_batched3.md R181). -/
def execB3Enc (s : State) : Host.Outcome State Fault Refusal := (b3EncStep Config.chip s).finish

/-- `OC` of one lane of B3.DEC from the lane before: `DC` doubled, and once more at a cadence point (45_batched3.md
R182). -/
def decOffset (s : State) (i : Len) (dc : Block) : Block := if s.cadence i then dbl (dbl dc) else dbl dc

/-- One lane of the sequential middle of B3.DEC, for block `i` with the offset `oc` (45_batched3.md R182): the check of
the intermediate tag at a cadence point, then inverse rho against `W`. The continuation takes the lane's block. -/
def decLane (c : Setup) (i : Len) (oc x : Block) (s : State) (k : Block → State → Flow) : Flow :=
  (if s.cadence i then itagCompare c oc s else .go s).andThen fun t =>
    let r := rhoInv x t.work.w
    k r.1 { t with work := { t.work with w := r.2 } }

/-- `B3.DEC` (45_batched3.md R182). -/
def b3DecStep (c : Setup) (s : State) : Flow :=
  let om0 := dbl s.work.dm
  let om1 := dbl om0
  let om2 := dbl om1
  let oc0 := decOffset s s.work.idx s.work.dc
  let oc1 := decOffset s (s.work.idx + 1#64) oc0
  let oc2 := decOffset s (s.work.idx + 2#64) oc1
  let s0 := { s with work := { s.work with dm := om2, dc := oc2 } }
  loadGroup s0 fun ct =>
    let x := decipher3 c s0 (ct.1 ^^^ oc0, ct.2.1 ^^^ oc1, ct.2.2 ^^^ oc2)
    decLane c s0.work.idx oc0 x.1 s0 fun y0 s1 =>
      decLane c (s1.work.idx + 1#64) oc1 x.2.1 s1 fun y1 s2 =>
        decLane c (s2.work.idx + 2#64) oc2 x.2.2 s2 fun y2 s3 =>
          let z := decipher3 c s3 (y0, y1, y2)
          let q := (z.1 ^^^ om0, z.2.1 ^^^ om1, z.2.2 ^^^ om2)
          (storeGroup q s3).andThen fun s4 => .go (advanceMsg 3#64 (accumulateGroup q s4))

/-- `B3.DEC` as an instruction (45_batched3.md R182). -/
def execB3Dec (s : State) : Host.Outcome State Fault Refusal := (b3DecStep Config.chip s).finish

end Sys2Proof.Machine
end

