-- ==== Sys2Proof/Machine/Colm0.lean ====
section
/-! DEFINITION. The COLM0 engine (43_colm0.md R141 to R151); with `PERIODIC = 1` the same micro-operations run the
cadence part of Colm127.lean. -/

namespace Sys2Proof.Machine

/-- `BLK.ENC` (43_colm0.md R141). -/
def blkEncStep (c : Setup) (s : State) : Flow :=
  (cadenceGen c s.work.idx (offsets dbl s)).andThen fun s1 =>
    loadBlock s1 .input (blockAddr s1.work.idx) fun p =>
      let r := encBlock c p s1
      (storeBlock r.2 .out (blockAddr s1.work.idx) r.1).andThen fun s2 =>
        .go (advanceMsg 1#64 (accumulate p s2))

/-- `BLK.ENC` as an instruction (43_colm0.md R141). -/
def execBlkEnc (s : State) : Host.Outcome State Fault Refusal := (blkEncStep Config.chip s).finish

/-- `BLK.DEC` (43_colm0.md R148). -/
def blkDecStep (c : Setup) (s : State) : Flow :=
  (cadenceChk c s.work.idx (offsets dbl s)).andThen fun s1 =>
    loadBlock s1 .input (blockAddr s1.work.idx) fun x =>
      let r := decBlock c x s1
      (storeBlock r.2 .out (blockAddr s1.work.idx) r.1).andThen fun s2 =>
        .go (advanceMsg 1#64 (accumulate r.1 s2))

/-- `BLK.DEC` as an instruction (43_colm0.md R148). -/
def execBlkDec (s : State) : Host.Outcome State Fault Refusal := (blkDecStep Config.chip s).finish

/-- `FIN.OFS` (43_colm0.md R142). -/
def finOfsStep (s : State) : Flow :=
  let t := offsets sep s
  goTo (if 0 < s.nblk then .final else .tag) (if 0 < s.rlen then offsets sep t else t)

/-- `FIN.OFS` as an instruction (43_colm0.md R142). -/
def execFinOfs (s : State) : Host.Outcome State Fault Refusal := (finOfsStep s).finish

/-- `IDX <- IDX + 1 ; PHASE <- TAG` (43_colm0.md R143, R149). -/
def endFinal (s : State) : Flow := goTo .tag { s with work := { s.work with idx := s.work.idx + 1#64 } }

/-- The statement `p = ...` of FIN.ENC: the final plaintext block, whole or padded (43_colm0.md R143). -/
def loadFinal (s : State) (k : Block → Flow) : Flow :=
  if s.rlen = 0 then loadBlock s .input (16 * s.nnf) k else loadPartial s .input (16 * s.nnf) s.rlen k

/-- `FIN.ENC` (43_colm0.md R143). -/
def finEncStep (c : Setup) (s : State) : Flow :=
  (cadenceGen c s.work.idx s).andThen fun s1 =>
    loadFinal s1 fun p =>
      let r := encBlock c p s1
      (storeBlock r.2 .out (16 * s1.nnf) r.1).andThen fun s2 => endFinal (accumulate p s2)

/-- `FIN.ENC` as an instruction (43_colm0.md R143). -/
def execFinEnc (s : State) : Host.Outcome State Fault Refusal := (finEncStep Config.chip s).finish

/-- `FIN.DEC` (43_colm0.md R149). -/
def finDecStep (c : Setup) (s : State) : Flow :=
  (cadenceChk c s.work.idx s).andThen fun s1 =>
    loadBlock s1 .input (16 * s1.nnf) fun x =>
      let r := decBlock c x s1
      let s2 := accumulate r.1 { r.2 with work := { r.2.work with pf := r.1 } }
      (storePartial s2 .out (16 * s2.nnf) r.1 s2.tlen).andThen endFinal

/-- `FIN.DEC` as an instruction (43_colm0.md R149). -/
def execFinDec (s : State) : Host.Outcome State Fault Refusal := (finDecStep Config.chip s).finish

/-- `TAG.GEN` (43_colm0.md R146). -/
def tagGenStep (c : Setup) (s : State) : Flow :=
  let s1 := offsets dbl s
  let r := encBlock c s1.work.cs s1
  let s2 := { r.2 with work := { r.2.work with t := r.1 } }
  if s2.dec then goTo .tagChk s2
  else (storePartial s2 .out (16 * s2.nblk) r.1 s2.tlen).andThen fun s3 => .halt .success s3

/-- `TAG.GEN` as an instruction (43_colm0.md R146). -/
def execTagGen (s : State) : Host.Outcome State Fault Refusal := (tagGenStep Config.chip s).finish

/-- `TAG.CHK` (43_colm0.md R150). -/
def tagChkStep (s : State) : Flow :=
  readBytes s .input (16 * s.nblk) s.tlen fun received =>
    if tagMatches s received then
      if 0 < s.rlen then goTo .padChk s else .halt .success s
    else .halt .tagMismatch s

/-- `TAG.CHK` as an instruction (43_colm0.md R150). -/
def execTagChk (s : State) : Host.Outcome State Fault Refusal := (tagChkStep s).finish

/-- `PAD.CHK` (43_colm0.md R151). -/
def padChkStep (s : State) : Flow := .halt (paddingStatus s) s

/-- `PAD.CHK` as an instruction (43_colm0.md R151). -/
def execPadChk (s : State) : Host.Outcome State Fault Refusal := (padChkStep s).finish

end Sys2Proof.Machine
end

