-- ==== Sys2Proof/Machine/Commands.lean ====
section
/-! DEFINITION. The eight commands, CHK.LEN and HALT (46_commands_sequencer.md R202, R207, R211, R212, R217 to R224). -/

namespace Sys2Proof.Machine

/-- An encrypt command whose output length fits 64 bits (10_state.md R28, 70_reset_and_hazards.md R268). -/
def launchable (w : BitVec 3) (s : State) : Bool :=
  w.getLsbD 0 || decide (s.host.inlen.toNat ≤ 2 ^ 64 - 17)

/-- `START` with the command word `w` (46_commands_sequencer.md R202): ignored while `BUSY = 1` (R207); refused where
70_reset_and_hazards.md R268 gives it no meaning (93_implementation_defined.md U12; log entry 9). The command's
micro-operations are the steps that follow (R210). -/
def launch (w : BitVec 3) (s : State) : Host.Outcome State Fault Refusal :=
  if s.busy then .next s
  else if launchable w s then
    .next { s with latch := { s.host with cmd := w }, busy := true, done := false, phase := .check }
  else .refused .encryptTooLong

/-- `COLM0.ENC`, `CMD = 000` (R217). -/
def execColm0Enc (s : State) : Host.Outcome State Fault Refusal := launch 0b000#3 s

/-- `COLM0.DEC`, `CMD = 001` (R218). -/
def execColm0Dec (s : State) : Host.Outcome State Fault Refusal := launch 0b001#3 s

/-- `COLM127.ENC`, `CMD = 010` (R219). -/
def execColm127Enc (s : State) : Host.Outcome State Fault Refusal := launch 0b010#3 s

/-- `COLM127.DEC`, `CMD = 011` (R220). -/
def execColm127Dec (s : State) : Host.Outcome State Fault Refusal := launch 0b011#3 s

/-- `COLM0.ENC3`, `CMD = 100` (R221). -/
def execColm0Enc3 (s : State) : Host.Outcome State Fault Refusal := launch 0b100#3 s

/-- `COLM0.DEC3`, `CMD = 101` (R222). -/
def execColm0Dec3 (s : State) : Host.Outcome State Fault Refusal := launch 0b101#3 s

/-- `COLM127.ENC3`, `CMD = 110` (R223). -/
def execColm127Enc3 (s : State) : Host.Outcome State Fault Refusal := launch 0b110#3 s

/-- `COLM127.DEC3`, `CMD = 111` (R224). -/
def execColm127Dec3 (s : State) : Host.Outcome State Fault Refusal := launch 0b111#3 s

/-- `CHK.LEN` (R211). -/
def chkLenStep (s : State) : Flow := if lengthTooShort s then .halt .invalidLength s else goTo .init s

/-- `CHK.LEN` as an instruction (R211). -/
def execChkLen (s : State) : Host.Outcome State Fault Refusal := (chkLenStep s).finish

/-- `HALT` run by itself: its status operand is the `haltArg` wire (R212; log entry 7). -/
def execHalt (s : State) : Host.Outcome State Fault Refusal := (Flow.halt s.ports.haltArg s).finish

end Sys2Proof.Machine
end

