-- ==== Sys2Proof/Machine/Mac.lean ====
section
/-! DEFINITION. INIT (40_gf_offset.md R105) and the associated-data MAC accumulator (42_ad_mac.md R130 to R133). -/

namespace Sys2Proof.Machine

/-- The seed block: the nonce in bits 127:64, the variant's constant in bits 63:0 (30_encoding.md R88). -/
def seedBlock (c : Setup) (s : State) : Block :=
  (blockOfBytes (s.mem.read .nonce 0 8) <<< 64) |||
    (if s.periodic then c.param127 else c.param0).setWidth 128

/-- `INIT` (40_gf_offset.md R105). It clears the result-length registers of 10_state.md R27; what the host reads of them
keeps its old value until HALT (46_commands_sequencer.md R202). That these are two places is DEDUCED (log entry 26). -/
def initStep (c : Setup) (s : State) : Flow :=
  let rke := c.ksEnc (s.mem.loadBlock .key 0)
  let l := c.bcEnc rke zeroBlock
  .go { s with
    work := { s.work with
      rke := rke
      rkd := if s.dec then c.ksDec rke else s.work.rkd
      l := l
      dm := l
      dc := tpl l
      da := tpl l
      seed := seedBlock c s
      cs := zeroBlock
      aidx := 0#64
      idx := 1#64
      tagpos := 0#64 }
    outlen := 0#64
    tagoutlen := 0#64
    phase := .macSeed }

/-- `INIT` as an instruction (40_gf_offset.md R105). -/
def execInit (s : State) : Host.Outcome State Fault Refusal := (initStep Config.chip s).finish

/-- `MAC.SEED` (42_ad_mac.md R130). -/
def macSeedStep (c : Setup) (s : State) : Flow :=
  .go { s with
    work := { s.work with v := encipher c s (s.work.seed ^^^ s.work.da) }
    phase :=
      if s.latch.adlen.toNat = 0 then .macDone
      else if 0 < s.afull then .macFull
      else .macFinal }

/-- `MAC.SEED` as an instruction (42_ad_mac.md R130). -/
def execMacSeed (s : State) : Host.Outcome State Fault Refusal := (macSeedStep Config.chip s).finish

/-- `V <- V ^ E(A ^ DA)` with the offset `da` just advanced (42_ad_mac.md R131, R132). -/
def absorb (c : Setup) (da a : Block) (s : State) : State :=
  { s with work := { s.work with da := da, v := s.work.v ^^^ encipher c s (a ^^^ da) } }

/-- `MAC.FULL` (42_ad_mac.md R131). -/
def macFullStep (c : Setup) (s : State) : Flow :=
  loadBlock s .ad (adAddr s.work.aidx) fun a =>
    let t := absorb c (dbl s.work.da) a s
    let aidx := s.work.aidx + 1#64
    .go { t with
      work := { t.work with aidx := aidx }
      phase := if aidx.toNat < s.afull then .macFull else .macFinal }

/-- `MAC.FULL` as an instruction (42_ad_mac.md R131). -/
def execMacFull (s : State) : Host.Outcome State Fault Refusal := (macFullStep Config.chip s).finish

/-- `MAC.FINAL` (42_ad_mac.md R132). -/
def macFinalStep (c : Setup) (s : State) : Flow :=
  loadPartial s .ad (16 * s.afull) s.arlen fun a => goTo .macDone (absorb c (sep s.work.da) a s)

/-- `MAC.FINAL` as an instruction (42_ad_mac.md R132). -/
def execMacFinal (s : State) : Host.Outcome State Fault Refusal := (macFinalStep Config.chip s).finish

/-- `MAC.DONE` (42_ad_mac.md R133). -/
def macDoneStep (s : State) : Flow :=
  goTo (if 1 ≤ s.nnf then .msg else .finOfs) { s with work := { s.work with w := s.work.v } }

/-- `MAC.DONE` as an instruction (42_ad_mac.md R133). -/
def execMacDone (s : State) : Host.Outcome State Fault Refusal := (macDoneStep s).finish

end Sys2Proof.Machine
end

