-- ==== Sys2Proof/Machine/Dispatch.lean ====
section
/-! DEFINITION. The meaning of each instruction, one arm per constructor. -/

namespace Sys2Proof.Machine

def exec (i : Instr) (s : State) : Host.Outcome State Fault Refusal :=
  match i with
  | .colm0Enc => Sys2Proof.Machine.execColm0Enc s
  | .colm0Dec => Sys2Proof.Machine.execColm0Dec s
  | .colm127Enc => Sys2Proof.Machine.execColm127Enc s
  | .colm127Dec => Sys2Proof.Machine.execColm127Dec s
  | .colm0Enc3 => Sys2Proof.Machine.execColm0Enc3 s
  | .colm0Dec3 => Sys2Proof.Machine.execColm0Dec3 s
  | .colm127Enc3 => Sys2Proof.Machine.execColm127Enc3 s
  | .colm127Dec3 => Sys2Proof.Machine.execColm127Dec3 s
  | .gfDbl => Sys2Proof.Machine.execGfDbl s
  | .gfTpl => Sys2Proof.Machine.execGfTpl s
  | .gfSep => Sys2Proof.Machine.execGfSep s
  | .rhoFwd => Sys2Proof.Machine.execRhoFwd s
  | .rhoInv => Sys2Proof.Machine.execRhoInv s
  | .chkLen => Sys2Proof.Machine.execChkLen s
  | .init => Sys2Proof.Machine.execInit s
  | .macSeed => Sys2Proof.Machine.execMacSeed s
  | .macFull => Sys2Proof.Machine.execMacFull s
  | .macFinal => Sys2Proof.Machine.execMacFinal s
  | .macDone => Sys2Proof.Machine.execMacDone s
  | .blkEnc => Sys2Proof.Machine.execBlkEnc s
  | .blkDec => Sys2Proof.Machine.execBlkDec s
  | .b3Enc => Sys2Proof.Machine.execB3Enc s
  | .b3Dec => Sys2Proof.Machine.execB3Dec s
  | .finOfs => Sys2Proof.Machine.execFinOfs s
  | .finEnc => Sys2Proof.Machine.execFinEnc s
  | .finDec => Sys2Proof.Machine.execFinDec s
  | .itagGen => Sys2Proof.Machine.execItagGen s
  | .itagChk => Sys2Proof.Machine.execItagChk s
  | .tagGen => Sys2Proof.Machine.execTagGen s
  | .tagChk => Sys2Proof.Machine.execTagChk s
  | .padChk => Sys2Proof.Machine.execPadChk s
  | .halt => Sys2Proof.Machine.execHalt s

end Sys2Proof.Machine
end

