-- ==== Sys2Proof/Machine/HostPort.lean ====
section
/-! DEFINITION. The host protocol (46_commands_sequencer.md R200 to R207) and RESET (70_reset_and_hazards.md R260). -/

namespace Sys2Proof.Machine

/-- Run the instruction a word decodes to, or refuse the word by name (30_encoding.md R87). -/
def runDecoded (d : Except DecodeError Instr) (s : State) : Host.Outcome State Fault Refusal :=
  match d with
  | .ok i => exec i s
  | .error e => .refused (.illegalWord e)

/-- `WRITE(reg, v)`, the value cut to the register's width, while `BUSY = 0` (R201). -/
def writeReg (reg : WritableReg) (v : Nat) (h : HostRegs) : HostRegs :=
  match reg with
  | .cmd => { h with cmd := BitVec.ofNat 3 v }
  | .adlen => { h with adlen := BitVec.ofNat 64 v }
  | .inlen => { h with inlen := BitVec.ofNat 64 v }
  | .taginlen => { h with taginlen := BitVec.ofNat 64 v }

/-- `READ(reg)` (R200, 10_state.md R32). OUTLEN and TAGOUTLEN answer their old values until HALT (R202; log entry 26). -/
def readReg (reg : ReadableReg) (s : State) : Len :=
  match reg with
  | .cmd => s.host.cmd.setWidth 64
  | .adlen => s.host.adlen
  | .inlen => s.host.inlen
  | .taginlen => s.host.taginlen
  | .busy => if s.busy then 1#64 else 0#64
  | .done => if s.done then 1#64 else 0#64
  | .status => s.status.code.setWidth 64
  | .outlen => s.reported.outlen
  | .tagoutlen => s.reported.tagoutlen

/-- A host access to `n` bytes of a buffer: refused while `BUSY = 1` (70_reset_and_hazards.md R263), a fault outside the
space (20_memory.md R50). -/
def hostBuffer (s : State) (sp : Space) (a n : Nat) (t : State) : Host.Outcome State Fault Refusal :=
  if s.busy then .refused .bufferWhileBusy
  else if a + n ≤ sp.hostBytes then .next t
  else .fault (.outsideSpace sp a)

/-- One host event (R200); `START` runs the word in `CMD` (R202), `RESET` is the platform's (70_reset_and_hazards.md
R260). -/
def hostAct (e : HostEvent) (s : State) : Host.Outcome State Fault Refusal :=
  match e with
  | .write reg v => .next (if s.busy then s else { s with host := writeReg reg v s.host })
  | .writeBuf sp a bytes =>
    hostBuffer s sp.space a.toNat bytes.length { s with mem := s.mem.write sp.space a.toNat bytes }
  | .start => runDecoded (decode (.cmd s.host.cmd)) s
  | .read reg => .next { s with readout := .value (readReg reg s) }
  | .readBuf sp a n =>
    hostBuffer s sp.space a.toNat n { s with readout := .bytes (s.mem.read sp.space a.toNat n) }
  | .reset => .next (resetEvent s)

end Sys2Proof.Machine
end

