-- ==== Sys2Proof/Machine/Sequencer.lean ====
section
/-! DEFINITION. The sequencer (46_commands_sequencer.md R210): which micro-operation the controller's next step is. -/

namespace Sys2Proof.Machine

/-- The micro-operation number issued in the message phase (R210, 45_batched3.md R180). -/
def msgWord (s : State) : BitVec 5 :=
  if s.wide && s.groupReady then (if s.dec then 10#5 else 9#5) else (if s.dec then 8#5 else 7#5)

/-- The micro-operation number the sequencer issues (R210); none in phase IDLE. -/
def issued (s : State) : Option (BitVec 5) :=
  match s.phase with
  | .idle => none
  | .check => some 1#5
  | .init => some 2#5
  | .macSeed => some 3#5
  | .macFull => some 4#5
  | .macFinal => some 5#5
  | .macDone => some 6#5
  | .msg => some (msgWord s)
  | .finOfs => some 11#5
  | .final => some (if s.dec then 13#5 else 12#5)
  | .tag => some 16#5
  | .tagChk => some 17#5
  | .padChk => some 18#5

/-- The controller's turn: while `BUSY = 1` one micro-operation, else nothing (R210; log entry 19). -/
def controllerTurn (s : State) : Host.Outcome State Fault Refusal :=
  if s.busy then
    match issued s with
    | some u => runDecoded (decode (.uop u)) s
    | none => .next s
  else .next s

/-- The next turn: the head of the inbox, or the controller's when the inbox is empty (log entry 4). -/
def nextTurn (s : State) : Host.Outcome State Fault Refusal :=
  match s.inbox with
  | [] => controllerTurn s
  | .controller :: rest => controllerTurn { s with inbox := rest }
  | .host e :: rest => hostAct e { s with inbox := rest }

/-- A word given to be run by itself is run first, and once (log entry 5). -/
def stepOnce (s : State) : Host.Outcome State Fault Refusal :=
  match s.issueWord with
  | some w => runDecoded (decodeBits w.nbits w.bits) { s with issueWord := none }
  | none => nextTurn s

end Sys2Proof.Machine
end

