-- ==== Sys2Proof/Machine/Step.lean ====
section
/-! DEFINITION. One step of the machine, and where a word to be run by itself is placed. -/

namespace Sys2Proof.Machine

/-- One step: a word given by itself, a host event, or one micro-operation (46_commands_sequencer.md R200, R210). -/
def step (s : State) : Host.Outcome State Fault Refusal := stepOnce s

/-- The state with a word of the opcode table placed where `step` takes its next word (log entry 5). -/
def State.withFetchWord (s : State) (nbits w : Nat) : State := { s with issueWord := some ⟨nbits, w⟩ }

end Sys2Proof.Machine
end

