-- ==== Sys2Proof/Machine/Reference.lean ====
section
/-! DEFINITION. The whole commands as functions of byte lists (42_ad_mac.md R134; 43_colm0.md R147, R152; 44_colm127.md
R166, R167). The machine does not call them: claims compare its runs with them. -/

namespace Sys2Proof.Machine

/-- The values threaded through a message: both offsets, the chaining state, the checksum (10_state.md R34). -/
structure Chain where
  dm : Block
  dc : Block
  w : Block
  cs : Block
deriving DecidableEq, Repr

/-- What a list of blocks gives: the output bytes, the intermediate tags, the chain after it. -/
structure ChainOut where
  out : List Byte
  tags : List Byte
  chain : Chain
deriving DecidableEq, Repr

/-- The first `n` whole 16-byte blocks of a byte string (20_memory.md R51). -/
def wholeBlocks (bs : List Byte) (n : Nat) : List Block :=
  (List.range n).map fun i => blockOfBytes ((bs.drop (16 * i)).take 16)

/-- One full associated-data block (R134): `DA = dbl(DA); V = V ^ E(A ^ DA)`, on the pair `(DA, V)`. -/
def adBlock (c : Setup) (rke : Sched) (s : Block × Block) (a : Block) : Block × Block :=
  (dbl s.1, s.2 ^^^ c.bcEnc rke (a ^^^ dbl s.1))

/-- `AD_MAC(RKE, L, SEED, ad)` (R134). -/
def adMac (c : Setup) (rke : Sched) (l seed : Block) (ad : List Byte) : Block :=
  let v := c.bcEnc rke (seed ^^^ tpl l)
  if ad.length = 0 then v
  else
    let n := ad.length / 16
    let r := (wholeBlocks ad n).foldl (adBlock c rke) (tpl l, v)
    r.2 ^^^ c.bcEnc rke (blockOfBytes (padBytes (ad.drop (16 * n))) ^^^ sep r.1)

/-- Both offsets advanced by `f`. -/
def Chain.offsets (ch : Chain) (f : Block → Block) : Chain := { ch with dm := f ch.dm, dc := f ch.dc }

/-- The offsets of the final stage: one septuple, two with a partial final block (43_colm0.md R142). -/
def Chain.final (ch : Chain) (r : Nat) : Chain :=
  if 0 < r then (ch.offsets sep).offsets sep else ch.offsets sep

/-- The chain when the message starts (40_gf_offset.md R105, 42_ad_mac.md R133). -/
def startChain (c : Setup) (periodic : Bool) (rke : Sched) (nonce ad : List Byte) : Chain :=
  let l := c.bcEnc rke zeroBlock
  let seed := (blockOfBytes nonce <<< 64) ||| (if periodic then c.param127 else c.param0).setWidth 128
  { dm := l, dc := tpl l, w := adMac c rke l seed ad, cs := zeroBlock }

/-- Two passes and rho, forward (43_colm0.md R140), with the checksum of the plaintext block. -/
def Chain.encrypt (c : Setup) (rke : Sched) (ch : Chain) (p : Block) : Block × Chain :=
  let r := rho (c.bcEnc rke (p ^^^ ch.dm)) ch.w
  (c.bcEnc rke r.1 ^^^ ch.dc, { ch with w := r.2, cs := ch.cs ^^^ p })

/-- Two passes and rho, inverse (43_colm0.md R140), with the checksum of the recovered block. -/
def Chain.decrypt (c : Setup) (rkd : Sched) (ch : Chain) (x : Block) : Block × Chain :=
  let r := rhoInv (c.bcDec rkd (x ^^^ ch.dc)) ch.w
  let p := c.bcDec rkd r.1 ^^^ ch.dm
  (p, { ch with w := r.2, cs := ch.cs ^^^ p })

/-- The extra doubling at a cadence point (44_colm127.md R160, R161). -/
def Chain.cadence (ch : Chain) (periodic : Bool) (i : Nat) : Chain :=
  if periodic && i % 127 == 0 then { ch with dc := dbl ch.dc } else ch

/-- The intermediate tag of block `i`, on the chain after the extra doubling (44_colm127.md R161). -/
def Chain.itag (c : Setup) (rke : Sched) (ch : Chain) (periodic : Bool) (i : Nat) : List Byte :=
  if periodic && i % 127 == 0 then bytesOfBlock (c.bcEnc rke ch.w ^^^ ch.dc) else []

/-- Block `i` encrypted, its offsets already advanced: the cadence part, then the block (44_colm127.md R163). -/
def Chain.encryptAt (c : Setup) (rke : Sched) (periodic : Bool) (ch : Chain) (i : Nat) (p : Block) : ChainOut :=
  let ch1 := ch.cadence periodic i
  let r := ch1.encrypt c rke p
  ⟨bytesOfBlock r.1, ch1.itag c rke periodic i, r.2⟩

/-- The non-final blocks encrypted, from block `i` on (43_colm0.md R141). -/
def encryptBlocks (c : Setup) (rke : Sched) (periodic : Bool) : Nat → Chain → List Block → ChainOut
  | _, ch, [] => ⟨[], [], ch⟩
  | i, ch, p :: ps =>
    let a := (ch.offsets dbl).encryptAt c rke periodic i p
    let b := encryptBlocks c rke periodic (i + 1) a.chain ps
    ⟨a.out ++ b.out, a.tags ++ b.tags, b.chain⟩

/-- The tag block: both offsets doubled, then the checksum encrypted (43_colm0.md R146). -/
def Chain.tagBlock (c : Setup) (rke : Sched) (ch : Chain) : Block :=
  ((ch.offsets dbl).encrypt c rke ch.cs).1

/-- Bytes of the final tag in the ciphertext stream (10_state.md R26). -/
def tagBytes (mlen : Nat) : Nat := if mlen % 16 = 0 then 16 else mlen % 16

/-- The final plaintext block, whole or padded (43_colm0.md R143). -/
def finalBlock (bs : List Byte) : Block := if bs.length = 16 then blockOfBytes bs else blockOfBytes (padBytes bs)

/-- The whole encryption (R147, R166): the ciphertext stream and the intermediate-tag stream. -/
def colmEnc (c : Setup) (periodic : Bool) (key nonce ad msg : List Byte) : List Byte × List Byte :=
  let rke := c.ksEnc (blockOfBytes key)
  let nblk := (msg.length + 15) / 16
  let nnf := nblk - 1
  let a := encryptBlocks c rke periodic 1 (startChain c periodic rke nonce ad) (wholeBlocks msg nnf)
  let ch := a.chain.final (msg.length % 16)
  let b : ChainOut :=
    if nblk = 0 then ⟨[], [], ch⟩ else ch.encryptAt c rke periodic nblk (finalBlock (msg.drop (16 * nnf)))
  (a.out ++ b.out ++ (bytesOfBlock (b.chain.tagBlock c rke)).take (tagBytes msg.length), a.tags ++ b.tags)

/-- Block `i` decrypted, its offsets already advanced; `none` where the intermediate tag at the head of the tag stream
is missing or differs (44_colm127.md R162). The result's `tags` are what is left of the tag stream. -/
def Chain.decryptAt (c : Setup) (rke rkd : Sched) (periodic : Bool) (ch : Chain) (i : Nat) (tags : List Byte)
    (x : Block) : Option (Block × List Byte × Chain) :=
  let ch1 := ch.cadence periodic i
  let t := ch1.itag c rke periodic i
  if tags.take t.length = t then
    let r := ch1.decrypt c rkd x
    some (r.1, tags.drop t.length, r.2)
  else none

/-- The non-final blocks decrypted, from block `i` on (43_colm0.md R148). -/
def decryptBlocks (c : Setup) (rke rkd : Sched) (periodic : Bool) :
    Nat → Chain → List Byte → List Block → Option ChainOut
  | _, ch, tags, [] => some ⟨[], tags, ch⟩
  | i, ch, tags, x :: xs =>
    match (ch.offsets dbl).decryptAt c rke rkd periodic i tags x with
    | none => none
    | some r =>
      match decryptBlocks c rke rkd periodic (i + 1) r.2.2 r.2.1 xs with
      | none => none
      | some b => some ⟨bytesOfBlock r.1 ++ b.out, b.tags, b.chain⟩

/-- What the padding of a recovered final block with `r` data bytes says (43_colm0.md R151). -/
def paddingVerdict (r : Nat) (pf : List Byte) : Status :=
  if r = 0 then .success
  else if pf[r]? ≠ some 0x80#8 then .badPaddingMarker
  else if (pf.drop (r + 1)).any (· != 0x00#8) then .badPaddingTail
  else .success

/-- The end of a decryption (43_colm0.md R150, R151): the tag, then the padding. -/
def decryptVerdict (c : Setup) (rke : Sched) (ch : Chain) (mlen : Nat) (received pf : List Byte) : Status :=
  if received = (bytesOfBlock (ch.tagBlock c rke)).take (tagBytes mlen) then paddingVerdict (mlen % 16) pf
  else .tagMismatch

/-- The result of a decryption: the plaintext with Success, nothing with a failure (R152). -/
def releaseOn (st : Status) (out : List Byte) : Status × List Byte := (st, if st = .success then out else [])

/-- The whole decryption (R152, R167) of the ciphertext stream `ct` with the tag stream `tags`. -/
def colmDec (c : Setup) (periodic : Bool) (key nonce ad ct tags : List Byte) : Status × List Byte :=
  if ct.length < 16 then (.invalidLength, [])
  else
    let rke := c.ksEnc (blockOfBytes key)
    let rkd := c.ksDec rke
    let mlen := ct.length - 16
    let nblk := (mlen + 15) / 16
    let nnf := nblk - 1
    let received := (ct.drop (16 * nblk)).take (tagBytes mlen)
    match decryptBlocks c rke rkd periodic 1 (startChain c periodic rke nonce ad) tags (wholeBlocks ct nnf) with
    | none => (.intermediateTagMismatch, [])
    | some a =>
      let ch := a.chain.final (mlen % 16)
      if nblk = 0 then releaseOn (decryptVerdict c rke ch mlen received []) a.out
      else
        match ch.decryptAt c rke rkd periodic nblk a.tags (blockOfBytes ((ct.drop (16 * nnf)).take 16)) with
        | none => (.intermediateTagMismatch, [])
        | some r =>
          let pf := bytesOfBlock r.1
          releaseOn (decryptVerdict c rke r.2.2 mlen received pf) (a.out ++ pf.take (tagBytes mlen))

end Sys2Proof.Machine
end

