-- ==== Sys2Proof/Safety.lean ====
section
/-! DEFINITION. The terms claims use: a consistent state, what a step leaves alone, what a halted command leaves. -/

namespace Sys2Proof.Machine

/-- The intermediate-tag bytes passed before block `i` (44_colm127.md R160, 10_state.md R27). -/
def State.tagBytesBefore (s : State) (i : Nat) : Nat := if s.periodic then 16 * ((i - 1) / 127) else 0

/-- What holds between the steps of every run: the sequencer's registers fit its phase (46_commands_sequencer.md R210,
10_state.md R25, R34), and every buffer is in canonical form. -/
structure Consistent (s : State) : Prop where
  /-- No word waits to be run by itself. -/
  noIssue : s.issueWord = none
  memWf : s.mem.wf = true
  busyIffPhase : s.busy = true ↔ s.phase ≠ .idle
  notBusyDone : ¬(s.busy = true ∧ s.done = true)
  /-- The precondition of an encrypt command (70_reset_and_hazards.md R268). -/
  encLength : s.busy = true → s.dec = false → s.latch.inlen.toNat ≤ 2 ^ 64 - 17
  /-- CHK.LEN has passed (46_commands_sequencer.md R211). -/
  decLength : s.busy = true → s.dec = true → s.phase ≠ .check → 16 ≤ s.latch.inlen.toNat
  macSeed : s.phase = .macSeed → s.work.aidx = 0#64
  macFull : s.phase = .macFull → s.work.aidx.toNat < s.afull
  macStart : s.phase = .macSeed ∨ s.phase = .macFull ∨ s.phase = .macFinal ∨ s.phase = .macDone →
    s.work.idx = 1#64 ∧ s.work.tagpos = 0#64
  msg : s.phase = .msg → 1 ≤ s.work.idx.toNat ∧ s.work.idx.toNat ≤ s.nnf
  finOfs : s.phase = .finOfs → s.work.idx.toNat = s.nnf + 1
  final : s.phase = .final → s.work.idx.toNat = s.nnf + 1 ∧ 0 < s.nblk
  tagpos : s.phase = .msg ∨ s.phase = .finOfs ∨ s.phase = .final →
    s.work.tagpos.toNat = s.tagBytesBefore s.work.idx.toNat
  tagChk : s.phase = .tagChk → s.dec = true
  padChk : s.phase = .padChk → s.dec = true ∧ 0 < s.rlen

/-- The next turn is the controller's. -/
def controllerMoves (s : State) : Bool :=
  match s.inbox with
  | [] => true
  | .controller :: _ => true
  | .host _ :: _ => false

/-- `t` differs from `s` at most in the working registers, the memory and the phase. -/
structure SameControl (s t : State) : Prop where
  host : t.host = s.host
  latch : t.latch = s.latch
  busy : t.busy = s.busy
  done : t.done = s.done
  status : t.status = s.status
  outlen : t.outlen = s.outlen
  tagoutlen : t.tagoutlen = s.tagoutlen
  reported : t.reported = s.reported
  ports : t.ports = s.ports
  inbox : t.inbox = s.inbox
  issueWord : t.issueWord = s.issueWord
  readout : t.readout = s.readout
  fresh : t.fresh = s.fresh

/-- Byte `j` of the memory image of a Block (20_memory.md R53). -/
def imageByte (x : Block) (j : Nat) : Byte := x.extractLsb' (120 - 8 * j) 8

/-- The `n` bytes from `a` on are the first `n` bytes of the memory image of `x` (20_memory.md R56, R57). -/
def HoldsBytes (m : Memory) (sp : Space) (a : Nat) (x : Block) (n : Nat) : Prop :=
  ∀ j, j < n → m.readByte sp (a + j) = imageByte x j

/-- Every byte outside `lo .. hi - 1` of the space reads as before. -/
def SameOutside (m m' : Memory) (sp : Space) (lo hi : Nat) : Prop :=
  ∀ sp' a, sp' ≠ sp ∨ a < lo ∨ hi ≤ a → m'.readByte sp' a = m.readByte sp' a

/-- Every byte reads as before, but those of OUT in `lo .. hi - 1` and those of TAGOUT in `tlo .. thi - 1`. -/
def SameOutsideBoth (m m' : Memory) (lo hi tlo thi : Nat) : Prop :=
  ∀ sp a, (sp = .out → a < lo ∨ hi ≤ a) → (sp = .tagOut → a < tlo ∨ thi ≤ a) → m'.readByte sp a = m.readByte sp a

/-- `t` is what HALT with the status `st` leaves of `s` (46_commands_sequencer.md R212, 60_exceptions.md R236), but for
the working registers and the bytes it makes unspecified: the host's side of the registers is unchanged, every byte
outside OUT and TAGOUT reads as before, and so does every known byte of OUT and TAGOUT below the reported lengths. -/
structure HaltedWith (st : Status) (s t : State) : Prop where
  status : t.status = st
  outlen : t.outlen = haltOutlen st s
  tagoutlen : t.tagoutlen = haltTagoutlen st s
  reported : t.reported = ⟨haltOutlen st s, haltTagoutlen st s⟩
  busy : t.busy = false
  done : t.done = true
  phase : t.phase = .idle
  host : t.host = s.host
  latch : t.latch = s.latch
  ports : t.ports = s.ports
  inbox : t.inbox = s.inbox
  issueWord : t.issueWord = s.issueWord
  readout : t.readout = s.readout
  inputs : ∀ sp a, sp ≠ .out → sp ≠ .tagOut → t.mem.readByte sp a = s.mem.readByte sp a
  results : ∀ a b, a < t.outlen.toNat → cellAt s.mem.out.cells a = some b → t.mem.readByte .out a = b
  tags : ∀ a b, a < t.tagoutlen.toNat → cellAt s.mem.tagOut.cells a = some b → t.mem.readByte .tagOut a = b

/-- `dbl` applied `n` times, `2^n·x` (00_scope.md R11). -/
def dblPow : Nat → Block → Block
  | 0, x => x
  | n + 1, x => dbl (dblPow n x)

/-- Cadence points among the blocks `1 .. i - 1` (10_state.md R34, 44_colm127.md R160). -/
def State.cadencesBefore (s : State) (i : Nat) : Nat := if s.periodic then (i - 1) / 127 else 0

/-- The offsets in the message phase (10_state.md R34): `DM = 2^(i-1)·L`, `DC = 2^(i-1+c)·3·L` for `i = IDX`, with `L`
and `3·L` before the first block. -/
def OffsetsInClosedForm (s : State) : Prop :=
  s.phase = .macSeed ∨ s.phase = .macFull ∨ s.phase = .macFinal ∨ s.phase = .macDone ∨ s.phase = .msg ∨
      s.phase = .finOfs →
    s.work.dm = dblPow (s.work.idx.toNat - 1) s.work.l ∧
    s.work.dc = dblPow (s.work.idx.toNat - 1 + s.cadencesBefore s.work.idx.toNat) (tpl s.work.l)

/-- XOR of the first `n` whole blocks of IN (43_colm0.md R144). -/
def inputXor (m : Memory) : Nat → Block
  | 0 => 0#128
  | n + 1 => inputXor m n ^^^ m.loadBlock .input (16 * n)

/-- The checksum in the message phase of an encrypt command is the XOR of the plaintext blocks before `IDX` (10_state.md
R34). -/
def ChecksumOfPlaintext (s : State) : Prop :=
  s.dec = false →
    s.phase = .macSeed ∨ s.phase = .macFull ∨ s.phase = .macFinal ∨ s.phase = .macDone ∨ s.phase = .msg ∨
      s.phase = .finOfs →
    s.work.cs = inputXor s.mem (s.work.idx.toNat - 1)

/-- Two states that agree in everything but the working registers and the model's wires. -/
def AgreeButWork (s t : State) : Prop := { t with work := s.work, ports := s.ports } = s

/-- `n` steps, stopping at the first fault or refusal. -/
def steps : Nat → State → Host.Outcome State Fault Refusal
  | 0, s => .next s
  | n + 1, s =>
    match step s with
    | .next t => steps n t
    | .fault r => .fault r
    | .refused r => .refused r

/-- The next turn is the host's event `e`, and no word waits to be run by itself. -/
def hostTurn (e : HostEvent) (rest : List Turn) (s : State) : Prop :=
  s.issueWord = none ∧ s.inbox = .host e :: rest

/-- The table of 46_commands_sequencer.md R210: the micro-operation of each phase, with the condition of
45_batched3.md R180 as it is written there. -/
def sequencerTable (s : State) : Option Instr :=
  match s.phase with
  | .idle => none
  | .check => some .chkLen
  | .init => some .init
  | .macSeed => some .macSeed
  | .macFull => some .macFull
  | .macFinal => some .macFinal
  | .macDone => some .macDone
  | .msg =>
    some (if s.wide = true ∧ (s.nnf : Int) - s.work.idx.toNat + 1 ≥ 3 then (if s.dec then .b3Dec else .b3Enc)
      else if s.dec then .blkDec else .blkEnc)
  | .finOfs => some .finOfs
  | .final => some (if s.dec then .finDec else .finEnc)
  | .tag => some .tagGen
  | .tagChk => some .tagChk
  | .padChk => some .padChk

/-- `dbl^-1` (40_gf_offset.md R104 (c)). -/
def halve (y : Block) : Block :=
  if y.getLsbD 0 then ((y ^^^ 0x87#128) >>> 1) ||| (1#128 <<< 127) else y >>> 1

/-- Block `IDX + j`, the block of lane `j` of a group (45_batched3.md R181, R182). -/
def State.lane (s : State) (j : Nat) : Len := s.work.idx + BitVec.ofNat 64 j

/-- The ciphertext offset after the first `n` lanes of a group: doubled for every lane, and once more at a cadence
point (45_batched3.md R181 to R183). Lane `j` uses the one after `j + 1` lanes. -/
def State.laneOffset (s : State) : Nat → Block
  | 0 => s.work.dc
  | n + 1 => if s.cadence (s.lane n) then dbl (dbl (s.laneOffset n)) else dbl (s.laneOffset n)

/-- What the first cipher pass of lane `j` gives in B3.ENC (45_batched3.md R181). -/
def State.lanePassEnc (c : Setup) (s : State) (j : Nat) : Block :=
  c.bcEnc s.work.rke (s.mem.loadBlock .input (blockAddr (s.lane j)) ^^^ dblPow (j + 1) s.work.dm)

/-- The chaining state before lane `j` of B3.ENC (45_batched3.md R181, R186). -/
def State.laneChainEnc (c : Setup) (s : State) : Nat → Block
  | 0 => s.work.w
  | n + 1 => (rho (s.lanePassEnc c n) (s.laneChainEnc c n)).2

/-- What the first cipher pass of lane `j` gives in B3.DEC (45_batched3.md R182). -/
def State.lanePassDec (c : Setup) (s : State) (j : Nat) : Block :=
  c.bcDec s.work.rkd (s.mem.loadBlock .input (blockAddr (s.lane j)) ^^^ s.laneOffset (j + 1))

/-- The chaining state before lane `j` of B3.DEC (45_batched3.md R182, R186). -/
def State.laneChainDec (c : Setup) (s : State) : Nat → Block
  | 0 => s.work.w
  | n + 1 => (rhoInv (s.lanePassDec c n) (s.laneChainDec c n)).2

/-- The block lane `j` of B3.DEC recovers (45_batched3.md R182). -/
def State.lanePlainDec (c : Setup) (s : State) (j : Nat) : Block :=
  c.bcDec s.work.rkd (rhoInv (s.lanePassDec c j) (s.laneChainDec c j)).1 ^^^ dblPow (j + 1) s.work.dm

/-- The intermediate tag of lane `j`, from the chaining state before that lane (45_batched3.md R183). -/
def State.laneTag (c : Setup) (s : State) (chain : Nat → Block) (j : Nat) : Block :=
  c.bcEnc s.work.rke (chain j) ^^^ s.laneOffset (j + 1)

/-- `TAGPOS` after a group: 16 more if one of its three lanes is a cadence point (45_batched3.md R181: at most one is). -/
def State.laneTagpos (s : State) : Len :=
  if s.cadence (s.lane 0) || s.cadence (s.lane 1) || s.cadence (s.lane 2) then s.work.tagpos + 16#64 else s.work.tagpos

/-- `f` up to `n` times, no further after a HALT (60_exceptions.md R236 (1)). -/
def untilHalt (f : State → Host.Outcome State Fault Refusal) : Nat → State → Host.Outcome State Fault Refusal
  | 0, s => .next s
  | n + 1, s =>
    match f s with
    | .next t => if t.phase = .idle then .next t else untilHalt f n t
    | .fault r => .fault r
    | .refused r => .refused r

/-- A command has just been started and the host waits (46_commands_sequencer.md R202). -/
structure JustStarted (s : State) : Prop where
  consistent : Consistent s
  alone : s.inbox = []
  busy : s.busy = true
  check : s.phase = .check

end Sys2Proof.Machine
end

