-- ==== Sys2Proof/Certificates/Slice0/Obligations.lean ====
section
/-! DEFINITION. The statements for the provers. Where the spec and the model are both quoted, `Config.chip` is the open
cipher: every statement holds for whatever it is. -/

open Sys2Proof Sys2Proof.Machine

/-! ## Words -/

/-- R80, R81, R83, R84, R86: the word of every instruction decodes to it, and a word that decodes to an instruction is
that instruction's word: no bit of a word is dropped. -/
def Obligations.DecodeAndEncodeAgree : Prop :=
  (∀ i : Instr, decode (encode i) = .ok i) ∧ (∀ (w : CtrlWord) (i : Instr), decode w = .ok i → encode i = w)

/-- R87: every command word and every `inv` bit is legal; `gfop = 00`, `uop = 0` and `uop = 20 .. 31` are refused, and no
other word is. -/
def Obligations.IllegalWordsAreRefused : Prop :=
  (∀ b : BitVec 3, ∃ i, decode (.cmd b) = .ok i) ∧
  (∀ b : BitVec 1, ∃ i, decode (.rhod b) = .ok i) ∧
  (∀ b : BitVec 2, (∃ e, decode (.gfop b) = .error e) ↔ b = 0#2) ∧
  (∀ b : BitVec 5, (∃ e, decode (.uop b) = .error e) ↔ b.toNat = 0 ∨ 20 ≤ b.toNat)

/-- R81, R83, R84, R86: a few words written out from the tables. -/
def Obligations.SampleWordsDecode : Prop :=
  decode (.cmd 0b001#3) = .ok .colm0Dec ∧ decode (.cmd 0b010#3) = .ok .colm127Enc ∧
  decode (.cmd 0b100#3) = .ok .colm0Enc3 ∧ decode (.gfop 0b10#2) = .ok .gfTpl ∧
  decode (.rhod 0b1#1) = .ok .rhoInv ∧ decode (.uop 0b01010#5) = .ok .b3Dec ∧ decode (.uop 0b10011#5) = .ok .halt

/-! ## Steps -/

/-- A step runs the decoded instruction: a word given to be run by itself (the model's own way in, log entry 5), the word
the sequencer issues on the controller's turn (R210), and the word in `CMD` on the host's START (R202). Around `exec` a
step only takes the word, or the turn, away. -/
def Obligations.StepRunsTheDecodedInstruction : Prop :=
  (∀ (s : State) (w : IssueWord) (i : Instr), s.issueWord = some w → decodeBits w.nbits w.bits = .ok i →
    step s = exec i { s with issueWord := none }) ∧
  (∀ (s : State) (u : BitVec 5) (i : Instr), s.issueWord = none → controllerMoves s = true → s.busy = true →
    issued s = some u → decode (.uop u) = .ok i → step s = exec i { s with inbox := s.inbox.tail }) ∧
  (∀ (s : State) (rest : List Turn) (i : Instr), hostTurn .start rest s → decode (.cmd s.host.cmd) = .ok i →
    step s = exec i { s with inbox := rest })

/-- R210, R180: while `BUSY = 1` the controller runs the micro-operation the table selects; while `BUSY = 0` its turn
changes nothing. -/
def Obligations.SequencerFollowsTheTable : Prop :=
  (∀ (s : State) (i : Instr), s.issueWord = none → controllerMoves s = true → s.busy = true →
    sequencerTable s = some i → step s = exec i { s with inbox := s.inbox.tail }) ∧
  (∀ s : State, s.issueWord = none → controllerMoves s = true → s.busy = false →
    step s = .next { s with inbox := s.inbox.tail })

/-! ## The offset generator and the rho unit -/

/-- R100: doubling, as a shift of the 128-bit number, byte by byte, and on the rule's corner cases and example. -/
def Obligations.DoublingIsAsStated : Prop :=
  decode (.gfop 0b01#2) = .ok .gfDbl ∧
  (∀ x : Block, dbl x = (x <<< 1) ^^^ (if x.getLsbD 127 = true then 0x87#128 else 0#128)) ∧
  (∀ (x : Block) (i : Nat), i < 15 → imageByte (dbl x) i = (imageByte x i <<< 1) ||| (imageByte x (i + 1) >>> 7)) ∧
  (∀ x : Block, imageByte (dbl x) 15 =
    (imageByte x 15 <<< 1) ^^^ (if imageByte x 0 >>> 7 = 1#8 then 0x87#8 else 0#8)) ∧
  dbl 0#128 = 0#128 ∧
  dbl 0x80000000000000000000000000000000#128 = 0x00000000000000000000000000000087#128 ∧
  dbl 0x80000000000000000000000000000001#128 = 0x00000000000000000000000000000085#128 ∧
  dbl 0xffffffffffffffffffffffffffffffff#128 = 0xffffffffffffffffffffffffffffff79#128 ∧
  dbl 0x000102030405060708090a0b0c0d0e0f#128 = 0x00020406080a0c0e10121416181a1c1e#128

/-- R101, R102: tripling and septupling, with the rules' corner cases and examples. -/
def Obligations.TriplingAndSeptuplingAreAsStated : Prop :=
  decode (.gfop 0b10#2) = .ok .gfTpl ∧ decode (.gfop 0b11#2) = .ok .gfSep ∧
  (∀ x : Block, tpl x = dbl x ^^^ x) ∧
  (∀ x : Block, sep x = dbl (dbl x) ^^^ dbl x ^^^ x) ∧
  tpl 0#128 = 0#128 ∧
  tpl 0xffffffffffffffffffffffffffffffff#128 = 0x00000000000000000000000000000086#128 ∧
  tpl 0x80000000000000000000000000000000#128 = 0x80000000000000000000000000000087#128 ∧
  tpl 0x000102030405060708090a0b0c0d0e0f#128 = 0x000306050c0f0a09181b1e1d14171211#128 ∧
  sep 0#128 = 0#128 ∧
  sep 0x80000000000000000000000000000000#128 = 0x80000000000000000000000000000189#128 ∧
  sep 0xffffffffffffffffffffffffffffffff#128 = 0xfffffffffffffffffffffffffffffef3#128 ∧
  sep 0xc0000000000000000000000000000000#128 = 0x4000000000000000000000000000010e#128 ∧
  sep (sep 1#128) = 0x15#128 ∧
  sep 0x000102030405060708090a0b0c0d0e0f#128 = 0x00070e091c1b1215383f363124232a2d#128

/-- What the spec infers in R102 and in R104 (a), (b) and, for doubling, (c): linearity, commutation, septupling twice,
and the inverse of doubling. -/
def Obligations.FieldLawsHold : Prop :=
  (∀ a b : Block, dbl (a ^^^ b) = dbl a ^^^ dbl b ∧ tpl (a ^^^ b) = tpl a ^^^ tpl b ∧ sep (a ^^^ b) = sep a ^^^ sep b) ∧
  (∀ x : Block, dbl (tpl x) = tpl (dbl x) ∧ dbl (sep x) = sep (dbl x) ∧ tpl (sep x) = sep (tpl x)) ∧
  (∀ x : Block, sep (sep x) = dblPow 4 x ^^^ dblPow 2 x ^^^ x) ∧
  (∀ x : Block, halve (dbl x) = x ∧ dbl (halve x) = x)

/-- R120, R121: both directions, with the forms, corner cases and examples the rules give. -/
def Obligations.RhoIsAsStated : Prop :=
  decode (.rhod 0b0#1) = .ok .rhoFwd ∧ decode (.rhod 0b1#1) = .ok .rhoInv ∧
  (∀ x s : Block, rho x s = (x ^^^ tpl s, x ^^^ dbl s)) ∧
  (∀ x s : Block, rho x s = (dbl s ^^^ x ^^^ s, dbl s ^^^ x)) ∧
  (∀ y s : Block, rhoInv y s = (y ^^^ tpl s, s ^^^ y)) ∧
  (∀ y s : Block, rhoInv y s = (dbl s ^^^ (s ^^^ y), s ^^^ y)) ∧
  (∀ x : Block, rho x 0#128 = (x, x) ∧ rhoInv x 0#128 = (x, x)) ∧
  (∀ s : Block, rho 0#128 s = (tpl s, dbl s) ∧ (rho (dbl s) s).2 = 0#128 ∧ (rhoInv s s).2 = 0#128) ∧
  rho 0x000102030405060708090a0b0c0d0e0f#128 0xf0e0d0c0b0a090807060504030201000#128 =
    (0x11207342d5e4b78798a9facb5c6d3e88#128, 0xe1c0a38265442707e8c9aa8b6c4d2e88#128) ∧
  rhoInv 0x11207342d5e4b78798a9facb5c6d3e88#128 0xf0e0d0c0b0a090807060504030201000#128 =
    (0x000102030405060708090a0b0c0d0e0f#128, 0xe1c0a38265442707e8c9aa8b6c4d2e88#128)

/-- R122: each direction of rho undoes the other, and both leave the same chaining state. -/
def Obligations.RhoInverts : Prop :=
  (∀ x s : Block, rhoInv (rho x s).1 s = (x, (rho x s).2)) ∧ (∀ y s : Block, rho (rhoInv y s).1 s = (y, (rhoInv y s).2))

/-- The five unit operations complete in every state. The operands and results of a unit operation that is run by
itself lie on wires of the model's own (log entry 7), the chaining state in `W` (R120); nothing else changes. -/
def Obligations.UnitOperationsComplete : Prop :=
  ∀ s : State,
    exec .gfDbl s = .next { s with ports := { s.ports with gfOut := dbl s.ports.gfIn } } ∧
    exec .gfTpl s = .next { s with ports := { s.ports with gfOut := tpl s.ports.gfIn } } ∧
    exec .gfSep s = .next { s with ports := { s.ports with gfOut := sep s.ports.gfIn } } ∧
    exec .rhoFwd s = .next { s with
      work := { s.work with w := (rho s.ports.rhoIn s.work.w).2 }
      ports := { s.ports with rhoOut := (rho s.ports.rhoIn s.work.w).1 } } ∧
    exec .rhoInv s = .next { s with
      work := { s.work with w := (rhoInv s.ports.rhoIn s.work.w).2 }
      ports := { s.ports with rhoOut := (rhoInv s.ports.rhoIn s.work.w).1 } }

/-! ## Memory -/

/-- R53, R54, R56: a loaded block's image is the bytes it was loaded from, the first one most significant; what
StoreBlock wrote, LoadBlock gives back. -/
def Obligations.BlocksAreBigEndian : Prop :=
  (∀ (m : Memory) (sp : Space) (a j : Nat), j < 16 → imageByte (m.loadBlock sp a) j = m.readByte sp (a + j)) ∧
  (∀ (m : Memory) (sp : Space) (a : Nat), (∀ j, j < 16 → m.readByte sp (a + j) = BitVec.ofNat 8 j) →
    m.loadBlock sp a = 0x000102030405060708090a0b0c0d0e0f#128) ∧
  (∀ (m : Memory) (sp : Space) (a : Nat) (x : Block), (m.storeBlock sp a x 16).loadBlock sp a = x)

/-- R55: the data bytes, then one `0x80`, then zeros; with the rule's examples. -/
def Obligations.PartialLoadPads : Prop :=
  (∀ (m : Memory) (sp : Space) (a n j : Nat), n ≤ 15 → j < 16 → imageByte (m.loadPartial sp a n) j =
    (if j < n then m.readByte sp (a + j) else if j = n then 0x80#8 else 0x00#8)) ∧
  (∀ (m : Memory) (sp : Space) (a : Nat), m.loadPartial sp a 0 = 0x80000000000000000000000000000000#128) ∧
  (∀ (m : Memory) (sp : Space) (a : Nat), m.readByte sp a = 0xaa#8 →
    m.loadPartial sp a 1 = 0xaa800000000000000000000000000000#128) ∧
  (∀ (m : Memory) (sp : Space) (a : Nat), (∀ j, j < 15 → m.readByte sp (a + j) = BitVec.ofNat 8 (j + 1)) →
    m.loadPartial sp a 15 = 0x0102030405060708090a0b0c0d0e0f80#128)

/-- R56, R57: a store of `n` bytes writes the first `n` bytes of the block's image and no other byte of any space. -/
def Obligations.StoresWriteTheirBytes : Prop :=
  ∀ (m : Memory) (sp : Space) (a n : Nat) (x : Block), 1 ≤ n → n ≤ 16 →
    HoldsBytes (m.storeBlock sp a x n) sp a x n ∧ SameOutside m (m.storeBlock sp a x n) sp a (a + n)

/-- R52: whatever instruction runs, every byte of KEY, NONCE, AD, IN and TAGIN reads as before. -/
def Obligations.InstructionsLeaveInputsAlone : Prop :=
  ∀ (i : Instr) (s t : State) (sp : Space) (a : Nat), exec i s = .next t → sp ≠ .out → sp ≠ .tagOut →
    t.mem.readByte sp a = s.mem.readByte sp a

/-- Every step keeps the canonical form of the memory, so equal memories are equal data (the model's own form, log
entry 12). -/
def Obligations.StepKeepsMemoryCanonical : Prop :=
  ∀ s t : State, s.mem.wf = true → step s = .next t → t.mem.wf = true

/-! ## Host and reset -/

/-- R201: a register write takes the value's low bits while `BUSY = 0` and is ignored while `BUSY = 1`. -/
def Obligations.RegisterWritesTakeEffectOnlyWhenIdle : Prop :=
  (∀ (s : State) (rest : List Turn) (v : Nat), s.busy = false →
    (hostTurn (.write .cmd v) rest s →
      step s = .next { s with inbox := rest, host := { s.host with cmd := BitVec.ofNat 3 v } }) ∧
    (hostTurn (.write .adlen v) rest s →
      step s = .next { s with inbox := rest, host := { s.host with adlen := BitVec.ofNat 64 v } }) ∧
    (hostTurn (.write .inlen v) rest s →
      step s = .next { s with inbox := rest, host := { s.host with inlen := BitVec.ofNat 64 v } }) ∧
    (hostTurn (.write .taginlen v) rest s →
      step s = .next { s with inbox := rest, host := { s.host with taginlen := BitVec.ofNat 64 v } })) ∧
  (∀ (s : State) (rest : List Turn) (reg : WritableReg) (v : Nat), s.busy = true → hostTurn (.write reg v) rest s →
    step s = .next { s with inbox := rest })

/-- R200: a WRITEBUF inside its space stores its bytes and changes no other byte; while `BUSY = 1` the model refuses it
(R263, U9; log entry 15). -/
def Obligations.HostWritesBuffers : Prop :=
  ∀ (s : State) (rest : List Turn) (sp : HostWriteSpace) (a : Len) (bytes : List Byte),
    hostTurn (.writeBuf sp a bytes) rest s →
      (s.busy = false → a.toNat + bytes.length ≤ sp.space.hostBytes →
        ∃ t, step s = .next t ∧ t = { s with inbox := rest, mem := t.mem } ∧
          (∀ j (h : j < bytes.length), t.mem.readByte sp.space (a.toNat + j) = bytes[j]) ∧
          SameOutside s.mem t.mem sp.space a.toNat (a.toNat + bytes.length)) ∧
      (s.busy = true → step s = .refused .bufferWhileBusy)

/-- R200, R32, R28, R82: a READ of each of the nine registers or a READBUF returns what is there and changes nothing
else, at any time for a register; a register narrower than the answer is zero-extended. The answer stands in a field of
the model's own (log entry 20). OUTLEN and TAGOUTLEN answer what HALT or RESET last left (R202; log entry 26). A READBUF
while `BUSY = 1` is refused (R263, U9; log entry 15). -/
def Obligations.HostReadsHaveNoSideEffect : Prop :=
  (∀ (s : State) (rest : List Turn),
    let answers := fun reg v => hostTurn (.read reg) rest s → step s = .next { s with inbox := rest, readout := .value v }
    answers .cmd (BitVec.ofNat 64 s.host.cmd.toNat) ∧
    answers .adlen s.host.adlen ∧
    answers .inlen s.host.inlen ∧
    answers .taginlen s.host.taginlen ∧
    answers .busy (if s.busy = true then 1#64 else 0#64) ∧
    answers .done (if s.done = true then 1#64 else 0#64) ∧
    (s.status = .success → answers .status 0#64) ∧
    (s.status = .invalidLength → answers .status 1#64) ∧
    (s.status = .tagMismatch → answers .status 2#64) ∧
    (s.status = .badPaddingMarker → answers .status 3#64) ∧
    (s.status = .badPaddingTail → answers .status 4#64) ∧
    (s.status = .intermediateTagMismatch → answers .status 5#64) ∧
    answers .outlen s.reported.outlen ∧
    answers .tagoutlen s.reported.tagoutlen) ∧
  (∀ (s : State) (rest : List Turn) (sp : HostReadSpace) (a : Len) (n : Nat), hostTurn (.readBuf sp a n) rest s →
    (s.busy = false → a.toNat + n ≤ 2 ^ 64 →
      ∃ bs : List Byte, step s = .next { s with inbox := rest, readout := .bytes bs } ∧ bs.length = n ∧
        ∀ j (h : j < bs.length), bs[j] = s.mem.readByte sp.space (a.toNat + j)) ∧
    (s.busy = true → step s = .refused .bufferWhileBusy))

/-- R260: the values of the reset event, at any time, also while `BUSY = 1`; no status is produced. -/
def Obligations.ResetEventGivesResetValues : Prop :=
  ∀ (s : State) (rest : List Turn), hostTurn .reset rest s →
    ∃ t, step s = .next t ∧ t.inbox = rest ∧ t.phase = .idle ∧ t.busy = false ∧ t.done = false ∧ t.status = .success ∧
      t.host = ⟨0#3, 0#64, 0#64, 0#64⟩ ∧ t.latch = ⟨0#3, 0#64, 0#64, 0#64⟩ ∧ t.outlen = 0#64 ∧ t.tagoutlen = 0#64 ∧
      t.reported = ⟨0#64, 0#64⟩ ∧ t.work.aidx = 0#64 ∧ t.work.idx = 0#64 ∧ t.work.tagpos = 0#64 ∧ zeroBlock = 0#128

/-- R35: the reset values the spec gives. -/
def Obligations.ResetValues : Prop :=
  State.reset.phase = .idle ∧ State.reset.phase.code = 0#4 ∧ State.reset.busy = false ∧ State.reset.done = false ∧
  State.reset.status.code = 0#3 ∧ State.reset.host = ⟨0#3, 0#64, 0#64, 0#64⟩ ∧
  State.reset.latch = ⟨0#3, 0#64, 0#64, 0#64⟩ ∧ State.reset.outlen = 0#64 ∧ State.reset.tagoutlen = 0#64 ∧
  State.reset.reported = ⟨0#64, 0#64⟩ ∧
  State.reset.work.tagpos = 0#64 ∧ State.reset.work.aidx = 0#64 ∧ State.reset.work.idx = 0#64 ∧ zeroBlock = 0#128

/-- The invariant of the sequencer holds right after reset. -/
def Obligations.ResetIsConsistent : Prop := Consistent State.reset

/-! ## Commands -/

/-- R202: START with `BUSY = 0` latches the command word and the lengths, sets `BUSY`, clears `DONE` and enters CHECK,
and changes nothing else: STATUS, OUTLEN and TAGOUTLEN keep their old values; for an encrypt command under the host's
obligation `INLEN <= 2^64 - 17` (R268). -/
def Obligations.StartLatchesTheCommand : Prop :=
  ∀ (s : State) (rest : List Turn), hostTurn .start rest s → s.busy = false →
    (s.host.cmd.getLsbD 0 = true ∨ s.host.inlen.toNat ≤ 2 ^ 64 - 17) →
    step s = .next { s with inbox := rest, latch := s.host, busy := true, done := false, phase := .check }

/-- R81, R217 to R224: each of the eight command words is a START with that word (log entry 8); an encrypt command over
`2^64 - 17` bytes is refused (R268, U12; log entry 9). -/
def Obligations.CommandWordsStartTheirCommand : Prop :=
  ∀ (s : State) (i : Instr) (w : BitVec 3),
    (i, w) ∈ [(Instr.colm0Enc, 0b000#3), (Instr.colm0Dec, 0b001#3), (Instr.colm127Enc, 0b010#3),
      (Instr.colm127Dec, 0b011#3), (Instr.colm0Enc3, 0b100#3), (Instr.colm0Dec3, 0b101#3),
      (Instr.colm127Enc3, 0b110#3), (Instr.colm127Dec3, 0b111#3)] →
    s.busy = false →
      (w.getLsbD 0 = true ∨ s.host.inlen.toNat ≤ 2 ^ 64 - 17 →
        exec i s = .next { s with latch := { s.host with cmd := w }, busy := true, done := false, phase := .check }) ∧
      (w.getLsbD 0 = false → 2 ^ 64 - 17 < s.host.inlen.toNat → exec i s = .refused .encryptTooLong)

/-- R207: START while `BUSY = 1` changes nothing; nor does a command word that is run by itself, since its meaning in
this model is START with that word (log entry 8). -/
def Obligations.StartWhileBusyIsIgnored : Prop :=
  (∀ (s : State) (rest : List Turn), hostTurn .start rest s → s.busy = true → step s = .next { s with inbox := rest }) ∧
  (∀ (s : State) (i : Instr),
    i ∈ [Instr.colm0Enc, .colm0Dec, .colm127Enc, .colm127Dec, .colm0Enc3, .colm0Dec3, .colm127Enc3, .colm127Dec3] →
    s.busy = true → exec i s = .next s)

/-- R211, R231: a decrypt command with `INLEN < 16` halts with InvalidLength, having touched no buffer but by HALT;
every other command goes on to INIT with nothing else changed. -/
def Obligations.ChkLenRefusesShortStreams : Prop :=
  ∀ s : State,
    (s.dec = true ∧ s.latch.inlen.toNat < 16 →
      ∃ t, exec .chkLen s = .next t ∧ HaltedWith .invalidLength s t ∧ t.outlen = 0#64 ∧ t.tagoutlen = 0#64) ∧
    (s.dec = false ∨ 16 ≤ s.latch.inlen.toNat → exec .chkLen s = .next { s with phase := .init })

/-- R212: what HALT writes, for the status on the model's own wire (log entry 7). The working registers and OUT and
TAGOUT beyond the reported lengths become unspecified: nothing is said of them. -/
def Obligations.HaltReportsTheResult : Prop :=
  ∀ s : State, ∃ t, exec .halt s = .next t ∧ t.status = s.ports.haltArg ∧ t.busy = false ∧ t.done = true ∧
    t.phase = .idle ∧
    (s.ports.haltArg = .success →
      t.outlen = BitVec.ofNat 64 (if s.dec = true then s.mlen else s.mlen + 16) ∧
      t.tagoutlen = (if s.dec = false ∧ s.periodic = true then BitVec.ofNat 64 (16 * s.ntag) else 0#64)) ∧
    (s.ports.haltArg ≠ .success → t.outlen = 0#64 ∧ t.tagoutlen = 0#64) ∧
    HaltedWith s.ports.haltArg s t

/-- R28, R202: no instruction writes `STATUS` or sets `DONE`, or changes what the host reads of OUTLEN and TAGOUTLEN, but
one that halts; nor does any step but a RESET event. INIT clears the result-length registers of R27 and not what the host
reads: the model's reading of R105 and R202 together (log entry 26). -/
def Obligations.OnlyHaltWritesStatus : Prop :=
  let kept := fun s t : State => t.status = s.status ∧ t.reported = s.reported ∧ (t.done = true → s.done = true)
  let halted := fun t : State =>
    t.busy = false ∧ t.done = true ∧ t.phase = .idle ∧ t.reported = ⟨t.outlen, t.tagoutlen⟩
  (∀ (i : Instr) (s t : State), exec i s = .next t → kept s t ∨ halted t) ∧
  (∀ s t : State, (∀ rest, ¬ hostTurn .reset rest s) → step s = .next t → kept s t ∨ halted t)

/-! ## INIT and the associated data -/

/-- R105, R88: what INIT writes; nothing else changes. The seed holds the nonce bytes in order in bits 127:64 and the
variant's constant in bits 63:0, and the two constants differ. What the host reads of OUTLEN and TAGOUTLEN is among what
does not change (R202; log entry 26). -/
def Obligations.InitResult : Prop :=
  Config.chip.param0 ≠ Config.chip.param127 ∧
  ∀ s : State,
    let rke := Config.chip.ksEnc (s.mem.loadBlock .key 0)
    let l := Config.chip.bcEnc rke 0#128
    ∃ seed : Block,
      (∀ j, j < 8 → imageByte seed j = s.mem.readByte .nonce j) ∧
      seed.extractLsb' 0 64 = (if s.periodic = true then Config.chip.param127 else Config.chip.param0) ∧
      exec .init s = .next { s with
        work := { s.work with
          rke := rke
          rkd := if s.dec = true then Config.chip.ksDec rke else s.work.rkd
          l := l
          dm := l
          dc := dbl l ^^^ l
          da := dbl l ^^^ l
          seed := seed
          cs := 0#128
          aidx := 0#64
          idx := 1#64
          tagpos := 0#64 }
        outlen := 0#64
        tagoutlen := 0#64
        phase := .macSeed }

/-- R130, R133: `V <- E(SEED ^ DA)`, and `W <- V`, each with its next phase; nothing else changes. -/
def Obligations.MacSeedAndMacDoneResult : Prop :=
  ∀ s : State,
    exec .macSeed s = .next { s with
      work := { s.work with v := Config.chip.bcEnc s.work.rke (s.work.seed ^^^ s.work.da) }
      phase :=
        if s.latch.adlen.toNat = 0 then .macDone
        else if s.latch.adlen.toNat / 16 = 0 then .macFinal
        else .macFull } ∧
    exec .macDone s = .next { s with
      work := { s.work with w := s.work.v }
      phase := if 1 ≤ s.nnf then .msg else .finOfs }

/-- R131: one full associated-data block, read at `16 * AIDX`; nothing else changes. -/
def Obligations.MacFullResult : Prop :=
  ∀ s : State, adAddr s.work.aidx + 16 ≤ s.latch.adlen.toNat →
    let da := dbl s.work.da
    let a := s.mem.loadBlock .ad (adAddr s.work.aidx)
    exec .macFull s = .next { s with
      work := { s.work with
        da := da
        v := s.work.v ^^^ Config.chip.bcEnc s.work.rke (a ^^^ da)
        aidx := s.work.aidx + 1#64 }
      phase := if (s.work.aidx + 1#64).toNat < s.latch.adlen.toNat / 16 then .macFull else .macFinal }

/-- R132: the last associated-data block, padded, of `ADLEN mod 16` bytes, none included; nothing else changes. -/
def Obligations.MacFinalResult : Prop :=
  ∀ s : State,
    let da := sep s.work.da
    let a := s.mem.loadPartial .ad (16 * (s.latch.adlen.toNat / 16)) (s.latch.adlen.toNat % 16)
    exec .macFinal s = .next { s with
      work := { s.work with da := da, v := s.work.v ^^^ Config.chip.bcEnc s.work.rke (a ^^^ da) }
      phase := .macDone }

/-- From INIT on, the MAC steps compute `AD_MAC` into `W`, in `3 + AFULL` steps and one more if `ADLEN > 0`, and leave
the memory alone. R134 defines the function; that the steps compute it is the spec's own inference there, and the count
of steps is inferred from R210. -/
def Obligations.MacStepsComputeAdMac : Prop :=
  ∀ s : State, Consistent s → s.inbox = [] → s.phase = .init →
    let rke := Config.chip.ksEnc (s.mem.loadBlock .key 0)
    let ad := s.mem.read .ad 0 s.latch.adlen.toNat
    ∃ t, steps (3 + s.afull + if s.latch.adlen = 0#64 then 0 else 1) s = .next t ∧
      t.work.w = adMac Config.chip rke (Config.chip.bcEnc rke 0#128) t.work.seed ad ∧
      t.phase = (if 1 ≤ s.nnf then .msg else .finOfs) ∧ t.busy = true ∧ t.mem = s.mem

/-! ## The message, one block at a time -/

/-- R141, R161: one non-final block, with the intermediate tag before it at a cadence point. OUT takes the ciphertext
at `16 * (IDX - 1)`, TAGOUT the tag at `TAGPOS`; every other byte, and every other register, is as before. -/
def Obligations.BlkEncResult : Prop :=
  ∀ s : State,
    let a := blockAddr s.work.idx
    let tp := s.work.tagpos.toNat
    let cad := s.cadence s.work.idx
    a + 16 ≤ s.spaceSize .input → a + 16 ≤ s.spaceSize .out → (cad = true → tp + 16 ≤ s.spaceSize .tagOut) →
    let E := Config.chip.bcEnc s.work.rke
    let dm := dbl s.work.dm
    let dc := if cad then dbl (dbl s.work.dc) else dbl s.work.dc
    let p := s.mem.loadBlock .input a
    let r := rho (E (p ^^^ dm)) s.work.w
    let idx := s.work.idx + 1#64
    ∃ t, exec .blkEnc s = .next t ∧ SameControl s t ∧
      t.work = { s.work with
        dm := dm
        dc := dc
        w := r.2
        cs := s.work.cs ^^^ p
        idx := idx
        tagpos := if cad then s.work.tagpos + 16#64 else s.work.tagpos } ∧
      t.phase = (if idx.toNat ≤ s.nnf then .msg else .finOfs) ∧
      HoldsBytes t.mem .out a (E r.1 ^^^ dc) 16 ∧
      (cad = true → HoldsBytes t.mem .tagOut tp (E s.work.w ^^^ dc) 16) ∧
      SameOutsideBoth s.mem t.mem a (a + 16) tp (if cad then tp + 16 else tp)

/-- R148, R162: one non-final block deciphered, where the intermediate tag of a cadence point, if there is one, is in
TAGIN at `TAGPOS`. OUT takes the plaintext at `16 * (IDX - 1)`; nothing else changes. -/
def Obligations.BlkDecResult : Prop :=
  ∀ s : State,
    let a := blockAddr s.work.idx
    let tp := s.work.tagpos.toNat
    let cad := s.cadence s.work.idx
    let E := Config.chip.bcEnc s.work.rke
    let D := Config.chip.bcDec s.work.rkd
    let dm := dbl s.work.dm
    let dc := if cad then dbl (dbl s.work.dc) else dbl s.work.dc
    a + 16 ≤ s.spaceSize .input → a + 16 ≤ s.spaceSize .out →
    (cad = true → tp + 16 ≤ s.latch.taginlen.toNat ∧ HoldsBytes s.mem .tagIn tp (E s.work.w ^^^ dc) 16) →
    let r := rhoInv (D (s.mem.loadBlock .input a ^^^ dc)) s.work.w
    let p := D r.1 ^^^ dm
    let idx := s.work.idx + 1#64
    ∃ t, exec .blkDec s = .next t ∧ SameControl s t ∧
      t.work = { s.work with
        dm := dm
        dc := dc
        w := r.2
        cs := s.work.cs ^^^ p
        idx := idx
        tagpos := if cad then s.work.tagpos + 16#64 else s.work.tagpos } ∧
      t.phase = (if idx.toNat ≤ s.nnf then .msg else .finOfs) ∧
      HoldsBytes t.mem .out a p 16 ∧ SameOutside s.mem t.mem .out a (a + 16)

/-- R162, R235, R236: at a cadence point, too short a tag stream or other bytes than the intermediate tag's raise
IntermediateTagMismatch in BLK.DEC, in FIN.DEC and in ITAG.CHK. -/
def Obligations.IntermediateTagMismatchIsRaised : Prop :=
  ∀ s : State,
    let tp := s.work.tagpos.toNat
    let wrong := fun dc => s.latch.taginlen.toNat < tp + 16 ∨
      ¬ HoldsBytes s.mem .tagIn tp (Config.chip.bcEnc s.work.rke s.work.w ^^^ dc) 16
    let raises := fun i => ∃ t, exec i s = .next t ∧ HaltedWith .intermediateTagMismatch s t ∧ t.outlen = 0#64 ∧
      t.tagoutlen = 0#64
    (s.cadence s.work.idx = true → wrong (dbl (dbl s.work.dc)) → raises .blkDec) ∧
    (s.cadence s.work.idx = true → wrong (dbl s.work.dc) → raises .finDec) ∧
    (wrong (dbl s.work.dc) → raises .itagChk)

/-- R142: both offsets septupled, twice with a partial final block, and the next phase; nothing else changes. -/
def Obligations.FinOfsResult : Prop :=
  ∀ s : State,
    exec .finOfs s = .next { s with
      work := { s.work with
        dm := if s.mlen % 16 = 0 then sep s.work.dm else sep (sep s.work.dm)
        dc := if s.mlen % 16 = 0 then sep s.work.dc else sep (sep s.work.dc) }
      phase := if s.nblk = 0 then .tag else .final }

/-- R143, R161: the final block, whole or padded, with the intermediate tag before it at a cadence point. OUT takes all
16 bytes at `16 * NNF`; every other byte, and every other register, is as before. -/
def Obligations.FinEncResult : Prop :=
  ∀ s : State,
    let a := 16 * s.nnf
    let tp := s.work.tagpos.toNat
    let cad := s.cadence s.work.idx
    a + (if s.rlen = 0 then 16 else s.rlen) ≤ s.spaceSize .input → a + 16 ≤ s.spaceSize .out →
    (cad = true → tp + 16 ≤ s.spaceSize .tagOut) →
    let E := Config.chip.bcEnc s.work.rke
    let dc := if cad then dbl s.work.dc else s.work.dc
    let p := if s.rlen = 0 then s.mem.loadBlock .input a else s.mem.loadPartial .input a s.rlen
    let r := rho (E (p ^^^ s.work.dm)) s.work.w
    ∃ t, exec .finEnc s = .next t ∧ SameControl s t ∧
      t.work = { s.work with
        dc := dc
        w := r.2
        cs := s.work.cs ^^^ p
        idx := s.work.idx + 1#64
        tagpos := if cad then s.work.tagpos + 16#64 else s.work.tagpos } ∧
      t.phase = .tag ∧
      HoldsBytes t.mem .out a (E r.1 ^^^ dc) 16 ∧
      (cad = true → HoldsBytes t.mem .tagOut tp (E s.work.w ^^^ dc) 16) ∧
      SameOutsideBoth s.mem t.mem a (a + 16) tp (if cad then tp + 16 else tp)

/-- R149, R162: the final block deciphered into `PF`, where the intermediate tag of a cadence point, if there is one,
is in TAGIN at `TAGPOS`. OUT takes 16 bytes of `PF` at `16 * NNF`, or the first `R`; nothing else changes. -/
def Obligations.FinDecResult : Prop :=
  ∀ s : State,
    let a := 16 * s.nnf
    let n := if s.rlen = 0 then 16 else s.rlen
    let tp := s.work.tagpos.toNat
    let cad := s.cadence s.work.idx
    let E := Config.chip.bcEnc s.work.rke
    let D := Config.chip.bcDec s.work.rkd
    let dc := if cad then dbl s.work.dc else s.work.dc
    a + 16 ≤ s.spaceSize .input → a + n ≤ s.spaceSize .out →
    (cad = true → tp + 16 ≤ s.latch.taginlen.toNat ∧ HoldsBytes s.mem .tagIn tp (E s.work.w ^^^ dc) 16) →
    let r := rhoInv (D (s.mem.loadBlock .input a ^^^ dc)) s.work.w
    let p := D r.1 ^^^ s.work.dm
    ∃ t, exec .finDec s = .next t ∧ SameControl s t ∧
      t.work = { s.work with
        dc := dc
        w := r.2
        cs := s.work.cs ^^^ p
        pf := p
        idx := s.work.idx + 1#64
        tagpos := if cad then s.work.tagpos + 16#64 else s.work.tagpos } ∧
      t.phase = .tag ∧
      HoldsBytes t.mem .out a p n ∧ SameOutside s.mem t.mem .out a (a + n)

/-- R161: the extra doubling, the tag `E(W) ^ DC` stored in TAGOUT at `TAGPOS`, `TAGPOS` 16 further; nothing else
changes, `W`, `DM` and `CS` among it. -/
def Obligations.ItagGenResult : Prop :=
  ∀ s : State,
    let tp := s.work.tagpos.toNat
    let dc := dbl s.work.dc
    tp + 16 ≤ s.spaceSize .tagOut →
    ∃ t, exec .itagGen s = .next t ∧ SameControl s t ∧ t.phase = s.phase ∧
      t.work = { s.work with dc := dc, tagpos := s.work.tagpos + 16#64 } ∧
      HoldsBytes t.mem .tagOut tp (Config.chip.bcEnc s.work.rke s.work.w ^^^ dc) 16 ∧
      SameOutside s.mem t.mem .tagOut tp (tp + 16)

/-- R162: where TAGIN holds the intermediate tag at `TAGPOS`, the extra doubling and `TAGPOS` 16 further; nothing else
changes. -/
def Obligations.ItagChkResult : Prop :=
  ∀ s : State,
    let tp := s.work.tagpos.toNat
    let dc := dbl s.work.dc
    tp + 16 ≤ s.latch.taginlen.toNat →
    HoldsBytes s.mem .tagIn tp (Config.chip.bcEnc s.work.rke s.work.w ^^^ dc) 16 →
    exec .itagChk s = .next { s with work := { s.work with dc := dc, tagpos := s.work.tagpos + 16#64 } }

/-- R146: both offsets doubled and `T` computed from the checksum by the forward cipher and the forward rho. A decrypt
command goes on to TAGCHK with nothing else changed; an encrypt command stores the first `TLEN` bytes of `T` in OUT at
`16 * NBLK` and halts with Success. -/
def Obligations.TagGenResult : Prop :=
  ∀ s : State,
    let E := Config.chip.bcEnc s.work.rke
    let dm := dbl s.work.dm
    let dc := dbl s.work.dc
    let r := rho (E (s.work.cs ^^^ dm)) s.work.w
    let tag := E r.1 ^^^ dc
    (s.dec = true →
      exec .tagGen s = .next { s with
        work := { s.work with dm := dm, dc := dc, w := r.2, t := tag }
        phase := .tagChk }) ∧
    (s.dec = false → s.latch.inlen.toNat ≤ 2 ^ 64 - 17 →
      ∃ t, exec .tagGen s = .next t ∧
        HaltedWith .success { s with mem := s.mem.storeBlock .out (16 * s.nblk) tag s.tlen } t ∧
        HoldsBytes t.mem .out (16 * s.nblk) tag s.tlen ∧
        t.outlen.toNat = 16 * s.nblk + s.tlen ∧ t.outlen.toNat = s.latch.inlen.toNat + 16)

/-- R150, R232: the last `TLEN` bytes of the stream against the first `TLEN` bytes of `T`. Equal: on to PADCHK with
nothing else changed if `R > 0`, else Success; different: TagMismatch. -/
def Obligations.TagChkResult : Prop :=
  ∀ s : State, s.dec = true → 16 ≤ s.latch.inlen.toNat →
    let equal := HoldsBytes s.mem .input (16 * s.nblk) s.work.t s.tlen
    (equal → 0 < s.rlen → exec .tagChk s = .next { s with phase := .padChk }) ∧
    (equal → s.rlen = 0 → ∃ t, exec .tagChk s = .next t ∧ HaltedWith .success s t) ∧
    (¬ equal → ∃ t, exec .tagChk s = .next t ∧ HaltedWith .tagMismatch s t ∧ t.outlen = 0#64)

/-- R151, R233, R234: byte `R` of the recovered final block must be `0x80`, then every byte after it `0x00`; the marker
is tested first. -/
def Obligations.PadChkResult : Prop :=
  ∀ s : State,
    let marker := imageByte s.work.pf s.rlen = 0x80#8
    let tail := ∀ j, s.rlen < j → j ≤ 15 → imageByte s.work.pf j = 0x00#8
    let halts := fun st => ∃ t, exec .padChk s = .next t ∧ HaltedWith st s t
    (marker → tail → halts .success) ∧ (¬ marker → halts .badPaddingMarker) ∧
    (marker → ¬ tail → halts .badPaddingTail)

/-- Under a key's two schedules DecBlock undoes EncBlock and leaves the same chaining state, for every cipher that meets
R9 (b): the spec's own inference, beside R140 and in R154. That EncBlock undoes DecBlock is this model's inference from
the same equations. -/
def Obligations.BlockRoundTrip : Prop :=
  ∀ (c : Setup) (key : Block) (s : State), s.work.rke = c.ksEnc key → s.work.rkd = c.ksDec (c.ksEnc key) →
    (∀ p : Block, decBlock c (encBlock c p s).1 s = (p, (encBlock c p s).2)) ∧
    (∀ x : Block, encBlock c (decBlock c x s).1 s = (x, (decBlock c x s).2))

/-! ## Groups of three blocks -/

/-- R181, R183: a group of three non-final blocks. The message offsets double lane by lane, the ciphertext offsets too
and once more at a cadence point, whose tag is taken from the chaining state before its lane; OUT takes the 48 bytes at
`16 * (IDX - 1)`; every other byte, and every other register, is as before. -/
def Obligations.B3EncResult : Prop :=
  ∀ s : State, s.dec = false → s.latch.inlen.toNat ≤ 2 ^ 64 - 17 → 1 ≤ s.work.idx.toNat →
    s.work.idx.toNat + 2 ≤ s.nnf →
    let a := blockAddr s.work.idx
    let tp := s.work.tagpos.toNat
    let thi := if s.laneTagpos = s.work.tagpos then tp else tp + 16
    thi ≤ s.spaceSize .tagOut →
    let E := Config.chip.bcEnc s.work.rke
    let chain := s.laneChainEnc Config.chip
    let p := fun j => s.mem.loadBlock .input (blockAddr (s.lane j))
    let idx := s.work.idx + 3#64
    ∃ t, exec .b3Enc s = .next t ∧ SameControl s t ∧
      t.work = { s.work with
        dm := dblPow 3 s.work.dm
        dc := s.laneOffset 3
        w := chain 3
        cs := s.work.cs ^^^ p 0 ^^^ p 1 ^^^ p 2
        idx := idx
        tagpos := s.laneTagpos } ∧
      t.phase = (if idx.toNat ≤ s.nnf then .msg else .finOfs) ∧
      (∀ j, j < 3 → HoldsBytes t.mem .out (blockAddr (s.lane j))
        (E (rho (s.lanePassEnc Config.chip j) (chain j)).1 ^^^ s.laneOffset (j + 1)) 16) ∧
      (∀ j, j < 3 → s.cadence (s.lane j) = true →
        HoldsBytes t.mem .tagOut tp (s.laneTag Config.chip chain j) 16) ∧
      SameOutsideBoth s.mem t.mem a (a + 48) tp thi

/-- R182, R183: a group of three non-final blocks deciphered, where the intermediate tag of a cadence point among them, if
there is one, is in TAGIN at `TAGPOS`. OUT takes the 48 bytes at `16 * (IDX - 1)`; nothing else changes. -/
def Obligations.B3DecResult : Prop :=
  ∀ s : State, s.dec = true → 16 ≤ s.latch.inlen.toNat → 1 ≤ s.work.idx.toNat → s.work.idx.toNat + 2 ≤ s.nnf →
    let a := blockAddr s.work.idx
    let tp := s.work.tagpos.toNat
    let chain := s.laneChainDec Config.chip
    let q := s.lanePlainDec Config.chip
    (∀ j, j < 3 → s.cadence (s.lane j) = true → tp + 16 ≤ s.latch.taginlen.toNat ∧
      HoldsBytes s.mem .tagIn tp (s.laneTag Config.chip chain j) 16) →
    let idx := s.work.idx + 3#64
    ∃ t, exec .b3Dec s = .next t ∧ SameControl s t ∧
      t.work = { s.work with
        dm := dblPow 3 s.work.dm
        dc := s.laneOffset 3
        w := chain 3
        cs := s.work.cs ^^^ q 0 ^^^ q 1 ^^^ q 2
        idx := idx
        tagpos := s.laneTagpos } ∧
      t.phase = (if idx.toNat ≤ s.nnf then .msg else .finOfs) ∧
      (∀ j, j < 3 → HoldsBytes t.mem .out (blockAddr (s.lane j)) (q j) 16) ∧
      SameOutside s.mem t.mem .out a (a + 48)

/-- R182: a failing cadence point in a group raises IntermediateTagMismatch before any plaintext of the group is
written: the state in which B3.DEC raises has the memory it began with. HALT then makes all of OUT unspecified (R31), so
OUT keeps no known byte; how the model does that is its own choice (log entry 13). -/
def Obligations.B3DecRaises : Prop :=
  ∀ (s : State) (j : Nat), s.dec = true → 16 ≤ s.latch.inlen.toNat → 1 ≤ s.work.idx.toNat →
    s.work.idx.toNat + 2 ≤ s.nnf → j < 3 → s.cadence (s.lane j) = true →
    (s.latch.taginlen.toNat < s.work.tagpos.toNat + 16 ∨
      ¬ HoldsBytes s.mem .tagIn s.work.tagpos.toNat (s.laneTag Config.chip (s.laneChainDec Config.chip) j) 16) →
    (∃ u, b3DecStep Config.chip s = .halt .intermediateTagMismatch u ∧ u.mem = s.mem) ∧
    ∃ t, exec .b3Dec s = .next t ∧ HaltedWith .intermediateTagMismatch s t ∧ t.outlen = 0#64 ∧ t.mem.out.cells = []

/-- A group step leaves exactly the state that three BLK steps leave: the spec's own inference in R185. After a failing
cadence point R187 lets OUT differ, and R261 leaves the working registers unspecified; that the two states are equal
there too is the model's choice of free values (log entries 10, 13), not the spec's. -/
def Obligations.GroupStepIsThreeBlockSteps : Prop :=
  ∀ s : State, 1 ≤ s.work.idx.toNat → s.work.idx.toNat + 2 ≤ s.nnf →
    (s.dec = false → s.latch.inlen.toNat ≤ 2 ^ 64 - 17 → s.work.tagpos.toNat = s.tagBytesBefore s.work.idx.toNat →
      exec .b3Enc s = untilHalt (exec .blkEnc) 3 s) ∧
    (s.dec = true → 16 ≤ s.latch.inlen.toNat → exec .b3Dec s = untilHalt (exec .blkDec) 3 s)

/-! ## Whole commands -/

/-- Every step keeps the invariant of the sequencer: the registers fit the phase (R210, R25), the memory its form. -/
def Obligations.StepKeepsConsistent : Prop := ∀ s t : State, Consistent s → step s = .next t → Consistent t

/-- R61, R50: the controller never makes an access outside a space, nor is any word it issues refused. -/
def Obligations.ControllerNeverStops : Prop :=
  ∀ s : State, Consistent s → controllerMoves s = true → ∃ t, step s = .next t

/-- R34: the offsets between the steps of the message phase, in closed form, are kept by every step. -/
def Obligations.StepKeepsOffsetsInClosedForm : Prop :=
  ∀ s t : State, Consistent s → OffsetsInClosedForm s → step s = .next t → OffsetsInClosedForm t

/-- R34, R144: the checksum of an encrypt command, between the steps of the message phase, is the XOR of the plaintext
blocks so far, and every step keeps it so. -/
def Obligations.StepKeepsChecksumOfPlaintext : Prop :=
  ∀ s t : State, Consistent s → ChecksumOfPlaintext s → step s = .next t → ChecksumOfPlaintext t

/-- R204, R249: a command halts, and the host reads the result lengths; an encrypt command always with Success. That it
halts within `10 + AFULL + NNF` steps is the spec's own inference in R215. -/
def Obligations.CommandsHaltWithinTheBound : Prop :=
  ∀ s : State, JustStarted s →
    ∃ n t, n ≤ 10 + s.afull + s.nnf ∧ steps n s = .next t ∧ t.done = true ∧ t.busy = false ∧ t.phase = .idle ∧
      t.reported = ⟨t.outlen, t.tagoutlen⟩ ∧
      (s.dec = false → t.status = .success ∧ t.outlen.toNat = s.latch.inlen.toNat + 16 ∧
        t.tagoutlen.toNat = 16 * s.ntag)

/-- R147, R166, R217, R219, R221, R223: an encrypt command leaves in OUT and TAGOUT the two streams that the whole
encryption, written as a function of the input bytes, gives. -/
def Obligations.EncryptCommandsComputeTheirFunction : Prop :=
  ∀ s : State, JustStarted s → s.dec = false →
    let out := colmEnc Config.chip s.periodic (s.mem.read .key 0 16) (s.mem.read .nonce 0 8)
      (s.mem.read .ad 0 s.latch.adlen.toNat) (s.mem.read .input 0 s.latch.inlen.toNat)
    ∃ n t, steps n s = .next t ∧ t.done = true ∧ t.status = .success ∧
      t.mem.read .out 0 t.outlen.toNat = out.1 ∧ t.mem.read .tagOut 0 t.tagoutlen.toNat = out.2

/-- R152, R167, R237, R218, R220, R222, R224: a decrypt command reports the status, and leaves in OUT the plaintext, that
the whole decryption, written as a function of the input bytes, gives; with a failure, nothing. -/
def Obligations.DecryptCommandsComputeTheirFunction : Prop :=
  ∀ s : State, JustStarted s → s.dec = true →
    let out := colmDec Config.chip s.periodic (s.mem.read .key 0 16) (s.mem.read .nonce 0 8)
      (s.mem.read .ad 0 s.latch.adlen.toNat) (s.mem.read .input 0 s.latch.inlen.toNat)
      (s.mem.read .tagIn 0 s.latch.taginlen.toNat)
    ∃ n t, steps n s = .next t ∧ t.done = true ∧ t.status = out.1 ∧ t.mem.read .out 0 t.outlen.toNat = out.2 ∧
      t.tagoutlen = 0#64

/-- Decrypting an encryption gives Success and the message: the property R153 quotes; that it holds for every cipher that
meets R9 (b) is the spec's own inference there. The ciphertext stream is 16 bytes longer than the message (R147), the tag
stream 16 bytes for every 127 blocks (R164). -/
def Obligations.DecryptionInvertsEncryption : Prop :=
  ∀ (c : Setup) (periodic : Bool) (key nonce ad msg : List Byte),
    let enc := colmEnc c periodic key nonce ad msg
    colmDec c periodic key nonce ad enc.1 enc.2 = (.success, msg) ∧
    enc.1.length = msg.length + 16 ∧
    enc.2.length = (if periodic = true then 16 * ((msg.length + 15) / 16 / 127) else 0)

/-- Other bytes in the place of the final tag give TagMismatch, always: the spec's own inference in R250 (c). -/
def Obligations.ChangedFinalTagIsRejected : Prop :=
  ∀ (c : Setup) (periodic : Bool) (key nonce ad msg tag : List Byte),
    let enc := colmEnc c periodic key nonce ad msg
    let n := 16 * ((msg.length + 15) / 16)
    tag.length = (enc.1.drop n).length → tag ≠ enc.1.drop n →
      colmDec c periodic key nonce ad (enc.1.take n ++ tag) enc.2 = (.tagMismatch, [])

/-- R221 to R224: a WIDE command ends as its sequential counterpart does, with the same status, and with Success the same
lengths and bytes. The statement compares every field but the latched `WIDE` bit itself. That OUT after a failure (R187,
R224), OUT and TAGOUT beyond the reported lengths (R205) and the working registers (R261) are equal too, where the spec
leaves them unspecified, is the model's choice of free values (log entries 10, 13). -/
def Obligations.WideCommandsMatchSequentialOnes : Prop :=
  ∀ s : State, JustStarted s → s.wide = true →
    let latch : HostRegs := { s.latch with cmd := s.latch.cmd &&& 0b011#3 }
    ∃ n n' t t', steps n s = .next t ∧ t.done = true ∧ steps n' { s with latch := latch } = .next t' ∧ t'.done = true ∧
      t' = { t with latch := latch }

/-- R203, R216: what an earlier command left in the working registers does not reach the result of the next: started
from two states that agree in everything else, the two runs end alike. The end states are equal also in what the spec
leaves unspecified, by the model's choice of free values: the working registers after HALT (R261; log entry 10), OUT after
a failure (R31) and OUT and TAGOUT beyond the reported lengths (R205; log entry 13). -/
def Obligations.EarlierCommandsLeaveNothing : Prop :=
  ∀ (s s' t : State) (n : Nat), JustStarted s → AgreeButWork s s' → steps n s = .next t → t.done = true →
    ∃ t', steps n s' = .next t' ∧ { t' with ports := t.ports } = t
end

