-- ==== Sys2Proof/Laws/Memory.lean ====
section
/-! SUPPORT. The laws of the buffers: reading after writing, and that every memory operation keeps the canonical form. -/

namespace Sys2Proof.Machine

/-! ## Lists of bytes -/

theorem cellAt_setCell (l : List Host.Cell) (a b : Nat) (v : Byte) :
    cellAt (setCell l a v) b = if b = a then some v else cellAt l b := by
  induction l with
  | nil => simp [setCell, cellAt]
  | cons c rest ih =>
    obtain ⟨k, u⟩ := c
    simp only [setCell]
    split_ifs <;> simp_all [cellAt]

theorem mem_setCell {l : List Host.Cell} {a : Nat} {v : Byte} {c : Host.Cell} (h : c ∈ setCell l a v) :
    c = (a, v) ∨ c ∈ l := by
  induction l with
  | nil => simpa [setCell] using h
  | cons d rest ih =>
    obtain ⟨k, u⟩ := d
    simp only [setCell] at h
    split_ifs at h <;> simp_all <;> tauto

theorem risingCells_setCell (l : List Host.Cell) (a : Nat) (v : Byte) (h : risingCells l = true) :
    risingCells (setCell l a v) = true := by
  induction l with
  | nil => simp [setCell, risingCells]
  | cons c rest ih =>
    obtain ⟨k, u⟩ := c
    simp only [risingCells, Bool.and_eq_true, List.all_eq_true, decide_eq_true_eq] at h
    simp only [setCell]
    split_ifs with h1 h2
    · simp only [risingCells, Bool.and_eq_true, List.all_eq_true, decide_eq_true_eq]
      refine ⟨fun d hd => ?_, h⟩
      rcases List.mem_cons.mp hd with rfl | hd
      · exact h1
      · exact lt_trans h1 (h.1 d hd)
    · simp only [risingCells, Bool.and_eq_true, List.all_eq_true, decide_eq_true_eq]
      exact ⟨fun d hd => h2 ▸ h.1 d hd, h.2⟩
    · simp only [risingCells, Bool.and_eq_true, List.all_eq_true, decide_eq_true_eq]
      refine ⟨fun d hd => ?_, ih h.2⟩
      rcases mem_setCell hd with rfl | hd
      · exact lt_of_le_of_ne (not_lt.mp h1) (Ne.symm h2)
      · exact h.1 d hd

theorem risingCells_filter (l : List Host.Cell) (p : Host.Cell → Bool) (h : risingCells l = true) :
    risingCells (l.filter p) = true := by
  induction l with
  | nil => rfl
  | cons c rest ih =>
    obtain ⟨k, u⟩ := c
    simp only [risingCells, Bool.and_eq_true, List.all_eq_true, decide_eq_true_eq] at h
    by_cases hp : p (k, u) = true
    · simp only [List.filter_cons, hp, if_true, risingCells, Bool.and_eq_true, List.all_eq_true, decide_eq_true_eq]
      exact ⟨fun d hd => h.1 d (List.mem_of_mem_filter hd), ih h.2⟩
    · simpa [List.filter_cons, hp] using ih h.2

theorem cellAt_none_of_lt {l : List Host.Cell} {a : Nat} (h : ∀ c ∈ l, a < c.1) : cellAt l a = none := by
  induction l with
  | nil => rfl
  | cons c rest ih =>
    obtain ⟨k, u⟩ := c
    have hk : a ≠ k := (h (k, u) (List.mem_cons_self ..)).ne
    simp only [cellAt, hk, if_false]
    exact ih fun c hc => h c (List.mem_cons_of_mem _ hc)

/-- Forgetting the bytes from `n` on leaves those below `n` listed as they were. -/
theorem cellAt_filter_lt (l : List Host.Cell) (n a : Nat) :
    cellAt (l.filter fun c => decide (c.1 < n)) a = if a < n then cellAt l a else none := by
  induction l with
  | nil => simp [cellAt]
  | cons c rest ih =>
    obtain ⟨k, u⟩ := c
    by_cases hk : k < n <;> by_cases hak : a = k <;> simp_all [cellAt]

/-! ## Canonical form -/

theorem Buffer.wf_iff (b : Buffer) : b.wf = true ↔ risingCells b.cells = true ∧ ∀ c ∈ b.cells, c.1 < 2 ^ 64 := by
  simp [Buffer.wf]

theorem Memory.wf_iff (m : Memory) : m.wf = true ↔ ∀ sp, (m.buf sp).wf = true := by
  simp only [Memory.wf, Bool.and_eq_true]
  constructor
  · rintro ⟨⟨⟨⟨⟨⟨h1, h2⟩, h3⟩, h4⟩, h5⟩, h6⟩, h7⟩ sp
    cases sp <;> assumption
  · intro h
    exact ⟨⟨⟨⟨⟨⟨h .key, h .nonce⟩, h .ad⟩, h .input⟩, h .tagIn⟩, h .out⟩, h .tagOut⟩

@[simp] theorem Memory.buf_setBuf (m : Memory) (sp sp' : Space) (b : Buffer) :
    (m.setBuf sp b).buf sp' = if sp' = sp then b else m.buf sp' := by
  cases sp <;> cases sp' <;> rfl

theorem Memory.writeByte_wf {m : Memory} {sp : Space} {a : Nat} {v : Byte} (h : m.wf = true) (ha : a < 2 ^ 64) :
    (m.writeByte sp a v).wf = true := by
  rw [Memory.wf_iff] at h ⊢
  intro sp'
  simp only [Memory.writeByte, Memory.buf_setBuf]
  split_ifs with hs
  · obtain ⟨hr, hb⟩ := (Buffer.wf_iff _).mp (h sp)
    refine (Buffer.wf_iff _).mpr ⟨risingCells_setCell _ _ _ hr, fun c hc => ?_⟩
    rcases mem_setCell hc with rfl | hc
    · exact ha
    · exact hb c hc
  · exact h sp'

/-- A write inside the 64-bit addresses keeps the canonical form. -/
theorem Memory.write_wf {m : Memory} {sp : Space} {a : Nat} {bs : List Byte} (h : m.wf = true)
    (ha : a + bs.length ≤ 2 ^ 64) : (m.write sp a bs).wf = true := by
  induction bs generalizing m a with
  | nil => exact h
  | cons v rest ih =>
    simp only [List.length_cons] at ha
    exact ih (Memory.writeByte_wf h (by omega)) (by omega)

theorem Buffer.forgetFrom_wf {b : Buffer} {n gen : Nat} (h : b.wf = true) : (b.forgetFrom n gen).wf = true := by
  obtain ⟨hr, hb⟩ := (Buffer.wf_iff _).mp h
  exact (Buffer.wf_iff _).mpr ⟨risingCells_filter _ _ hr, fun c hc => hb c (List.mem_of_mem_filter hc)⟩

theorem Memory.unknown_wf (gen : Nat) : (Memory.unknown gen).wf = true := rfl

theorem bytesOfBlock_length (x : Block) : (bytesOfBlock x).length = 16 := by simp [bytesOfBlock]

theorem Memory.storeBlock_wf {m : Memory} {sp : Space} {a n : Nat} {x : Block} (h : m.wf = true)
    (ha : a + n ≤ 2 ^ 64) : (m.storeBlock sp a x n).wf = true :=
  Memory.write_wf h (by simp [bytesOfBlock_length]; omega)

/-- HALT keeps the canonical form. -/
theorem haltWith_wf {st : Status} {s : State} (h : s.mem.wf = true) : (haltWith st s).mem.wf = true := by
  rw [Memory.wf_iff] at h ⊢
  intro sp
  cases sp
  case out => exact Buffer.forgetFrom_wf (h .out)
  case tagOut => exact Buffer.forgetFrom_wf (h .tagOut)
  all_goals first | exact h .key | exact h .nonce | exact h .ad | exact h .input | exact h .tagIn

theorem resetEvent_wf (s : State) : (resetEvent s).mem.wf = true := rfl

theorem reset_mem_wf : State.reset.mem.wf = true := rfl

/-! ## Reading after writing -/

theorem Memory.readByte_writeByte (m : Memory) (sp sp' : Space) (a b : Nat) (v : Byte) :
    (m.writeByte sp a v).readByte sp' b = if sp' = sp ∧ b = a then v else m.readByte sp' b := by
  simp only [Memory.readByte, Memory.writeByte, Memory.buf_setBuf]
  by_cases hs : sp' = sp
  · subst hs
    simp only [if_true, cellAt_setCell, true_and]
    split_ifs <;> simp
  · simp [hs]

/-- A write changes exactly the bytes it names. -/
theorem Memory.readByte_write (m : Memory) (sp sp' : Space) (a b : Nat) (bs : List Byte) :
    (m.write sp a bs).readByte sp' b =
      if h : sp' = sp ∧ a ≤ b ∧ b < a + bs.length then bs[b - a] else m.readByte sp' b := by
  induction bs generalizing m a with
  | nil => simp [Memory.write, show ¬(a ≤ b ∧ b < a) by omega]
  | cons v rest ih =>
    simp only [Memory.write, ih, Memory.readByte_writeByte, List.length_cons]
    by_cases hs : sp' = sp
    · rcases lt_trichotomy b a with hb | hb | hb
      · simp [hs, show ¬ a + 1 ≤ b by omega, show ¬ a ≤ b by omega, show b ≠ a by omega]
      · subst hb; simp [hs, show ¬ b + 1 ≤ b by omega]
      · by_cases hl : b < a + (rest.length + 1)
        · have e : b - a = (b - (a + 1)) + 1 := by omega
          simp [hs, show a + 1 ≤ b by omega, show b < a + 1 + rest.length by omega, show a ≤ b by omega, hl, e]
        · simp [hs, hl, show ¬ b < a + 1 + rest.length by omega, show b ≠ a by omega]
    · simp [hs]

theorem Memory.readByte_write_of_not {m : Memory} {sp sp' : Space} {a b : Nat} {bs : List Byte}
    (h : sp' ≠ sp ∨ b < a ∨ a + bs.length ≤ b) : (m.write sp a bs).readByte sp' b = m.readByte sp' b := by
  rw [Memory.readByte_write, dif_neg]
  rintro ⟨h1, h2, h3⟩
  rcases h with h | h | h
  · exact h h1
  · omega
  · omega

theorem Memory.read_length (m : Memory) (sp : Space) (a n : Nat) : (m.read sp a n).length = n := by
  simp [Memory.read]

/-- Reading just what was written gives it back. -/
theorem Memory.read_write_same (m : Memory) (sp : Space) (a : Nat) (bs : List Byte) :
    (m.write sp a bs).read sp a bs.length = bs := by
  refine List.ext_getElem (by simp [Memory.read]) fun i h1 h2 => ?_
  simp [Memory.read, Memory.readByte_write, h2]

/-- A read whose bytes all read as before gives what it gave. -/
theorem Memory.read_congr {m m' : Memory} {sp : Space} {a n : Nat}
    (h : ∀ b, a ≤ b → b < a + n → m'.readByte sp b = m.readByte sp b) : m'.read sp a n = m.read sp a n := by
  simp only [Memory.read]
  exact List.map_congr_left fun i hi => h _ (by omega) (by have := List.mem_range.mp hi; omega)

/-- What a store changes: the first `n` bytes of the block's image, and nothing else (20_memory.md R56, R57). -/
theorem Memory.readByte_storeBlock (m : Memory) (sp sp' : Space) (a b n : Nat) (x : Block) (hn : n ≤ 16) :
    (m.storeBlock sp a x n).readByte sp' b =
      if sp' = sp ∧ a ≤ b ∧ b < a + n then x.extractLsb' (120 - 8 * (b - a)) 8 else m.readByte sp' b := by
  simp only [Memory.storeBlock, Memory.readByte_write, List.length_take, bytesOfBlock_length, min_eq_left hn]
  split_ifs with h
  · simp [bytesOfBlock]
  · rfl

/-- The bytes a store leaves listed. -/
theorem cellAt_write (m : Memory) (sp : Space) (a b : Nat) (bs : List Byte) :
    cellAt ((m.write sp a bs).buf sp).cells b =
      if h : a ≤ b ∧ b < a + bs.length then some bs[b - a] else cellAt (m.buf sp).cells b := by
  induction bs generalizing m a with
  | nil => simp [Memory.write, show ¬(a ≤ b ∧ b < a) by omega]
  | cons v rest ih =>
    simp only [Memory.write, ih, Memory.writeByte, Memory.buf_setBuf, if_true, cellAt_setCell, List.length_cons]
    rcases lt_trichotomy b a with hb | hb | hb
    · simp [show ¬ a + 1 ≤ b by omega, show ¬ a ≤ b by omega, show b ≠ a by omega]
    · subst hb; simp [show ¬ b + 1 ≤ b by omega]
    · by_cases hl : b < a + (rest.length + 1)
      · have e : b - a = (b - (a + 1)) + 1 := by omega
        simp [show a + 1 ≤ b by omega, show b < a + 1 + rest.length by omega, show a ≤ b by omega, hl, e]
      · simp [hl, show ¬ b < a + 1 + rest.length by omega, show b ≠ a by omega]

end Sys2Proof.Machine
end

