-- ==== Sys2Proof/Laws/State.lean ====
section
/-! SUPPORT. One lemma per field per named update of the state, so that no later proof unfolds one. A field the update
does not write reads as before; so does every quantity derived from the latches (10_state.md R26). -/

namespace Sys2Proof.Machine

section Derived

variable {s t : State} (h : t.latch = s.latch)
include h

/-! The geometry depends on the latches only (10_state.md R26). -/

theorem State.dec_congr : t.dec = s.dec := by
  cases s; cases t; cases h; rfl

theorem State.periodic_congr : t.periodic = s.periodic := by
  cases s; cases t; cases h; rfl

theorem State.wide_congr : t.wide = s.wide := by
  cases s; cases t; cases h; rfl

theorem State.mlen_congr : t.mlen = s.mlen := by
  cases s; cases t; cases h; rfl

theorem State.rlen_congr : t.rlen = s.rlen := by
  cases s; cases t; cases h; rfl

theorem State.nblk_congr : t.nblk = s.nblk := by
  cases s; cases t; cases h; rfl

theorem State.nnf_congr : t.nnf = s.nnf := by
  cases s; cases t; cases h; rfl

theorem State.tlen_congr : t.tlen = s.tlen := by
  cases s; cases t; cases h; rfl

theorem State.ntag_congr : t.ntag = s.ntag := by
  cases s; cases t; cases h; rfl

theorem State.afull_congr : t.afull = s.afull := by
  cases s; cases t; cases h; rfl

theorem State.arlen_congr : t.arlen = s.arlen := by
  cases s; cases t; cases h; rfl

theorem State.spaceSize_congr (sp : Space) : t.spaceSize sp = s.spaceSize sp := by
  cases s; cases t; cases h; cases sp <;> rfl

theorem State.cadence_congr (i : Len) : t.cadence i = s.cadence i := by
  cases s; cases t; cases h; rfl

end Derived

/-! ## `offsets` -/

@[simp] theorem offsets_host (f : Block → Block) (s : State) : (offsets f s).host = s.host := rfl
@[simp] theorem offsets_latch (f : Block → Block) (s : State) : (offsets f s).latch = s.latch := rfl
@[simp] theorem offsets_busy (f : Block → Block) (s : State) : (offsets f s).busy = s.busy := rfl
@[simp] theorem offsets_done (f : Block → Block) (s : State) : (offsets f s).done = s.done := rfl
@[simp] theorem offsets_status (f : Block → Block) (s : State) : (offsets f s).status = s.status := rfl
@[simp] theorem offsets_outlen (f : Block → Block) (s : State) : (offsets f s).outlen = s.outlen := rfl
@[simp] theorem offsets_tagoutlen (f : Block → Block) (s : State) : (offsets f s).tagoutlen = s.tagoutlen := rfl
@[simp] theorem offsets_reported (f : Block → Block) (s : State) : (offsets f s).reported = s.reported := rfl
@[simp] theorem offsets_phase (f : Block → Block) (s : State) : (offsets f s).phase = s.phase := rfl
@[simp] theorem offsets_mem (f : Block → Block) (s : State) : (offsets f s).mem = s.mem := rfl
@[simp] theorem offsets_ports (f : Block → Block) (s : State) : (offsets f s).ports = s.ports := rfl
@[simp] theorem offsets_inbox (f : Block → Block) (s : State) : (offsets f s).inbox = s.inbox := rfl
@[simp] theorem offsets_issueWord (f : Block → Block) (s : State) : (offsets f s).issueWord = s.issueWord := rfl
@[simp] theorem offsets_readout (f : Block → Block) (s : State) : (offsets f s).readout = s.readout := rfl
@[simp] theorem offsets_fresh (f : Block → Block) (s : State) : (offsets f s).fresh = s.fresh := rfl
@[simp] theorem offsets_work_l (f : Block → Block) (s : State) : (offsets f s).work.l = s.work.l := rfl
@[simp] theorem offsets_work_dm (f : Block → Block) (s : State) : (offsets f s).work.dm = f s.work.dm := rfl
@[simp] theorem offsets_work_dc (f : Block → Block) (s : State) : (offsets f s).work.dc = f s.work.dc := rfl
@[simp] theorem offsets_work_da (f : Block → Block) (s : State) : (offsets f s).work.da = s.work.da := rfl
@[simp] theorem offsets_work_seed (f : Block → Block) (s : State) : (offsets f s).work.seed = s.work.seed := rfl
@[simp] theorem offsets_work_v (f : Block → Block) (s : State) : (offsets f s).work.v = s.work.v := rfl
@[simp] theorem offsets_work_w (f : Block → Block) (s : State) : (offsets f s).work.w = s.work.w := rfl
@[simp] theorem offsets_work_cs (f : Block → Block) (s : State) : (offsets f s).work.cs = s.work.cs := rfl
@[simp] theorem offsets_work_t (f : Block → Block) (s : State) : (offsets f s).work.t = s.work.t := rfl
@[simp] theorem offsets_work_pf (f : Block → Block) (s : State) : (offsets f s).work.pf = s.work.pf := rfl
@[simp] theorem offsets_work_rke (f : Block → Block) (s : State) : (offsets f s).work.rke = s.work.rke := rfl
@[simp] theorem offsets_work_rkd (f : Block → Block) (s : State) : (offsets f s).work.rkd = s.work.rkd := rfl
@[simp] theorem offsets_work_aidx (f : Block → Block) (s : State) : (offsets f s).work.aidx = s.work.aidx := rfl
@[simp] theorem offsets_work_idx (f : Block → Block) (s : State) : (offsets f s).work.idx = s.work.idx := rfl
@[simp] theorem offsets_work_tagpos (f : Block → Block) (s : State) : (offsets f s).work.tagpos = s.work.tagpos := rfl
@[simp] theorem offsets_dec (f : Block → Block) (s : State) : (offsets f s).dec = s.dec := rfl
@[simp] theorem offsets_periodic (f : Block → Block) (s : State) : (offsets f s).periodic = s.periodic := rfl
@[simp] theorem offsets_wide (f : Block → Block) (s : State) : (offsets f s).wide = s.wide := rfl
@[simp] theorem offsets_mlen (f : Block → Block) (s : State) : (offsets f s).mlen = s.mlen := rfl
@[simp] theorem offsets_rlen (f : Block → Block) (s : State) : (offsets f s).rlen = s.rlen := rfl
@[simp] theorem offsets_nblk (f : Block → Block) (s : State) : (offsets f s).nblk = s.nblk := rfl
@[simp] theorem offsets_nnf (f : Block → Block) (s : State) : (offsets f s).nnf = s.nnf := rfl
@[simp] theorem offsets_tlen (f : Block → Block) (s : State) : (offsets f s).tlen = s.tlen := rfl
@[simp] theorem offsets_ntag (f : Block → Block) (s : State) : (offsets f s).ntag = s.ntag := rfl
@[simp] theorem offsets_afull (f : Block → Block) (s : State) : (offsets f s).afull = s.afull := rfl
@[simp] theorem offsets_arlen (f : Block → Block) (s : State) : (offsets f s).arlen = s.arlen := rfl
@[simp] theorem offsets_spaceSize (f : Block → Block) (s : State) (sp : Space) : (offsets f s).spaceSize sp = s.spaceSize sp := rfl
@[simp] theorem offsets_cadence (f : Block → Block) (s : State) (i : Len) : (offsets f s).cadence i = s.cadence i := rfl

/-! ## `accumulate` -/

@[simp] theorem accumulate_host (p : Block) (s : State) : (accumulate p s).host = s.host := rfl
@[simp] theorem accumulate_latch (p : Block) (s : State) : (accumulate p s).latch = s.latch := rfl
@[simp] theorem accumulate_busy (p : Block) (s : State) : (accumulate p s).busy = s.busy := rfl
@[simp] theorem accumulate_done (p : Block) (s : State) : (accumulate p s).done = s.done := rfl
@[simp] theorem accumulate_status (p : Block) (s : State) : (accumulate p s).status = s.status := rfl
@[simp] theorem accumulate_outlen (p : Block) (s : State) : (accumulate p s).outlen = s.outlen := rfl
@[simp] theorem accumulate_tagoutlen (p : Block) (s : State) : (accumulate p s).tagoutlen = s.tagoutlen := rfl
@[simp] theorem accumulate_reported (p : Block) (s : State) : (accumulate p s).reported = s.reported := rfl
@[simp] theorem accumulate_phase (p : Block) (s : State) : (accumulate p s).phase = s.phase := rfl
@[simp] theorem accumulate_mem (p : Block) (s : State) : (accumulate p s).mem = s.mem := rfl
@[simp] theorem accumulate_ports (p : Block) (s : State) : (accumulate p s).ports = s.ports := rfl
@[simp] theorem accumulate_inbox (p : Block) (s : State) : (accumulate p s).inbox = s.inbox := rfl
@[simp] theorem accumulate_issueWord (p : Block) (s : State) : (accumulate p s).issueWord = s.issueWord := rfl
@[simp] theorem accumulate_readout (p : Block) (s : State) : (accumulate p s).readout = s.readout := rfl
@[simp] theorem accumulate_fresh (p : Block) (s : State) : (accumulate p s).fresh = s.fresh := rfl
@[simp] theorem accumulate_work_l (p : Block) (s : State) : (accumulate p s).work.l = s.work.l := rfl
@[simp] theorem accumulate_work_dm (p : Block) (s : State) : (accumulate p s).work.dm = s.work.dm := rfl
@[simp] theorem accumulate_work_dc (p : Block) (s : State) : (accumulate p s).work.dc = s.work.dc := rfl
@[simp] theorem accumulate_work_da (p : Block) (s : State) : (accumulate p s).work.da = s.work.da := rfl
@[simp] theorem accumulate_work_seed (p : Block) (s : State) : (accumulate p s).work.seed = s.work.seed := rfl
@[simp] theorem accumulate_work_v (p : Block) (s : State) : (accumulate p s).work.v = s.work.v := rfl
@[simp] theorem accumulate_work_w (p : Block) (s : State) : (accumulate p s).work.w = s.work.w := rfl
@[simp] theorem accumulate_work_cs (p : Block) (s : State) : (accumulate p s).work.cs = s.work.cs ^^^ p := rfl
@[simp] theorem accumulate_work_t (p : Block) (s : State) : (accumulate p s).work.t = s.work.t := rfl
@[simp] theorem accumulate_work_pf (p : Block) (s : State) : (accumulate p s).work.pf = s.work.pf := rfl
@[simp] theorem accumulate_work_rke (p : Block) (s : State) : (accumulate p s).work.rke = s.work.rke := rfl
@[simp] theorem accumulate_work_rkd (p : Block) (s : State) : (accumulate p s).work.rkd = s.work.rkd := rfl
@[simp] theorem accumulate_work_aidx (p : Block) (s : State) : (accumulate p s).work.aidx = s.work.aidx := rfl
@[simp] theorem accumulate_work_idx (p : Block) (s : State) : (accumulate p s).work.idx = s.work.idx := rfl
@[simp] theorem accumulate_work_tagpos (p : Block) (s : State) : (accumulate p s).work.tagpos = s.work.tagpos := rfl
@[simp] theorem accumulate_dec (p : Block) (s : State) : (accumulate p s).dec = s.dec := rfl
@[simp] theorem accumulate_periodic (p : Block) (s : State) : (accumulate p s).periodic = s.periodic := rfl
@[simp] theorem accumulate_wide (p : Block) (s : State) : (accumulate p s).wide = s.wide := rfl
@[simp] theorem accumulate_mlen (p : Block) (s : State) : (accumulate p s).mlen = s.mlen := rfl
@[simp] theorem accumulate_rlen (p : Block) (s : State) : (accumulate p s).rlen = s.rlen := rfl
@[simp] theorem accumulate_nblk (p : Block) (s : State) : (accumulate p s).nblk = s.nblk := rfl
@[simp] theorem accumulate_nnf (p : Block) (s : State) : (accumulate p s).nnf = s.nnf := rfl
@[simp] theorem accumulate_tlen (p : Block) (s : State) : (accumulate p s).tlen = s.tlen := rfl
@[simp] theorem accumulate_ntag (p : Block) (s : State) : (accumulate p s).ntag = s.ntag := rfl
@[simp] theorem accumulate_afull (p : Block) (s : State) : (accumulate p s).afull = s.afull := rfl
@[simp] theorem accumulate_arlen (p : Block) (s : State) : (accumulate p s).arlen = s.arlen := rfl
@[simp] theorem accumulate_spaceSize (p : Block) (s : State) (sp : Space) : (accumulate p s).spaceSize sp = s.spaceSize sp := rfl
@[simp] theorem accumulate_cadence (p : Block) (s : State) (i : Len) : (accumulate p s).cadence i = s.cadence i := rfl

/-! ## `extraDouble` -/

@[simp] theorem extraDouble_host (s : State) : (extraDouble s).host = s.host := rfl
@[simp] theorem extraDouble_latch (s : State) : (extraDouble s).latch = s.latch := rfl
@[simp] theorem extraDouble_busy (s : State) : (extraDouble s).busy = s.busy := rfl
@[simp] theorem extraDouble_done (s : State) : (extraDouble s).done = s.done := rfl
@[simp] theorem extraDouble_status (s : State) : (extraDouble s).status = s.status := rfl
@[simp] theorem extraDouble_outlen (s : State) : (extraDouble s).outlen = s.outlen := rfl
@[simp] theorem extraDouble_tagoutlen (s : State) : (extraDouble s).tagoutlen = s.tagoutlen := rfl
@[simp] theorem extraDouble_reported (s : State) : (extraDouble s).reported = s.reported := rfl
@[simp] theorem extraDouble_phase (s : State) : (extraDouble s).phase = s.phase := rfl
@[simp] theorem extraDouble_mem (s : State) : (extraDouble s).mem = s.mem := rfl
@[simp] theorem extraDouble_ports (s : State) : (extraDouble s).ports = s.ports := rfl
@[simp] theorem extraDouble_inbox (s : State) : (extraDouble s).inbox = s.inbox := rfl
@[simp] theorem extraDouble_issueWord (s : State) : (extraDouble s).issueWord = s.issueWord := rfl
@[simp] theorem extraDouble_readout (s : State) : (extraDouble s).readout = s.readout := rfl
@[simp] theorem extraDouble_fresh (s : State) : (extraDouble s).fresh = s.fresh := rfl
@[simp] theorem extraDouble_work_l (s : State) : (extraDouble s).work.l = s.work.l := rfl
@[simp] theorem extraDouble_work_dm (s : State) : (extraDouble s).work.dm = s.work.dm := rfl
@[simp] theorem extraDouble_work_dc (s : State) : (extraDouble s).work.dc = dbl s.work.dc := rfl
@[simp] theorem extraDouble_work_da (s : State) : (extraDouble s).work.da = s.work.da := rfl
@[simp] theorem extraDouble_work_seed (s : State) : (extraDouble s).work.seed = s.work.seed := rfl
@[simp] theorem extraDouble_work_v (s : State) : (extraDouble s).work.v = s.work.v := rfl
@[simp] theorem extraDouble_work_w (s : State) : (extraDouble s).work.w = s.work.w := rfl
@[simp] theorem extraDouble_work_cs (s : State) : (extraDouble s).work.cs = s.work.cs := rfl
@[simp] theorem extraDouble_work_t (s : State) : (extraDouble s).work.t = s.work.t := rfl
@[simp] theorem extraDouble_work_pf (s : State) : (extraDouble s).work.pf = s.work.pf := rfl
@[simp] theorem extraDouble_work_rke (s : State) : (extraDouble s).work.rke = s.work.rke := rfl
@[simp] theorem extraDouble_work_rkd (s : State) : (extraDouble s).work.rkd = s.work.rkd := rfl
@[simp] theorem extraDouble_work_aidx (s : State) : (extraDouble s).work.aidx = s.work.aidx := rfl
@[simp] theorem extraDouble_work_idx (s : State) : (extraDouble s).work.idx = s.work.idx := rfl
@[simp] theorem extraDouble_work_tagpos (s : State) : (extraDouble s).work.tagpos = s.work.tagpos := rfl
@[simp] theorem extraDouble_dec (s : State) : (extraDouble s).dec = s.dec := rfl
@[simp] theorem extraDouble_periodic (s : State) : (extraDouble s).periodic = s.periodic := rfl
@[simp] theorem extraDouble_wide (s : State) : (extraDouble s).wide = s.wide := rfl
@[simp] theorem extraDouble_mlen (s : State) : (extraDouble s).mlen = s.mlen := rfl
@[simp] theorem extraDouble_rlen (s : State) : (extraDouble s).rlen = s.rlen := rfl
@[simp] theorem extraDouble_nblk (s : State) : (extraDouble s).nblk = s.nblk := rfl
@[simp] theorem extraDouble_nnf (s : State) : (extraDouble s).nnf = s.nnf := rfl
@[simp] theorem extraDouble_tlen (s : State) : (extraDouble s).tlen = s.tlen := rfl
@[simp] theorem extraDouble_ntag (s : State) : (extraDouble s).ntag = s.ntag := rfl
@[simp] theorem extraDouble_afull (s : State) : (extraDouble s).afull = s.afull := rfl
@[simp] theorem extraDouble_arlen (s : State) : (extraDouble s).arlen = s.arlen := rfl
@[simp] theorem extraDouble_spaceSize (s : State) (sp : Space) : (extraDouble s).spaceSize sp = s.spaceSize sp := rfl
@[simp] theorem extraDouble_cadence (s : State) (i : Len) : (extraDouble s).cadence i = s.cadence i := rfl

/-! ## `advanceTagpos` -/

@[simp] theorem advanceTagpos_host (s : State) : (advanceTagpos s).host = s.host := rfl
@[simp] theorem advanceTagpos_latch (s : State) : (advanceTagpos s).latch = s.latch := rfl
@[simp] theorem advanceTagpos_busy (s : State) : (advanceTagpos s).busy = s.busy := rfl
@[simp] theorem advanceTagpos_done (s : State) : (advanceTagpos s).done = s.done := rfl
@[simp] theorem advanceTagpos_status (s : State) : (advanceTagpos s).status = s.status := rfl
@[simp] theorem advanceTagpos_outlen (s : State) : (advanceTagpos s).outlen = s.outlen := rfl
@[simp] theorem advanceTagpos_tagoutlen (s : State) : (advanceTagpos s).tagoutlen = s.tagoutlen := rfl
@[simp] theorem advanceTagpos_reported (s : State) : (advanceTagpos s).reported = s.reported := rfl
@[simp] theorem advanceTagpos_phase (s : State) : (advanceTagpos s).phase = s.phase := rfl
@[simp] theorem advanceTagpos_mem (s : State) : (advanceTagpos s).mem = s.mem := rfl
@[simp] theorem advanceTagpos_ports (s : State) : (advanceTagpos s).ports = s.ports := rfl
@[simp] theorem advanceTagpos_inbox (s : State) : (advanceTagpos s).inbox = s.inbox := rfl
@[simp] theorem advanceTagpos_issueWord (s : State) : (advanceTagpos s).issueWord = s.issueWord := rfl
@[simp] theorem advanceTagpos_readout (s : State) : (advanceTagpos s).readout = s.readout := rfl
@[simp] theorem advanceTagpos_fresh (s : State) : (advanceTagpos s).fresh = s.fresh := rfl
@[simp] theorem advanceTagpos_work_l (s : State) : (advanceTagpos s).work.l = s.work.l := rfl
@[simp] theorem advanceTagpos_work_dm (s : State) : (advanceTagpos s).work.dm = s.work.dm := rfl
@[simp] theorem advanceTagpos_work_dc (s : State) : (advanceTagpos s).work.dc = s.work.dc := rfl
@[simp] theorem advanceTagpos_work_da (s : State) : (advanceTagpos s).work.da = s.work.da := rfl
@[simp] theorem advanceTagpos_work_seed (s : State) : (advanceTagpos s).work.seed = s.work.seed := rfl
@[simp] theorem advanceTagpos_work_v (s : State) : (advanceTagpos s).work.v = s.work.v := rfl
@[simp] theorem advanceTagpos_work_w (s : State) : (advanceTagpos s).work.w = s.work.w := rfl
@[simp] theorem advanceTagpos_work_cs (s : State) : (advanceTagpos s).work.cs = s.work.cs := rfl
@[simp] theorem advanceTagpos_work_t (s : State) : (advanceTagpos s).work.t = s.work.t := rfl
@[simp] theorem advanceTagpos_work_pf (s : State) : (advanceTagpos s).work.pf = s.work.pf := rfl
@[simp] theorem advanceTagpos_work_rke (s : State) : (advanceTagpos s).work.rke = s.work.rke := rfl
@[simp] theorem advanceTagpos_work_rkd (s : State) : (advanceTagpos s).work.rkd = s.work.rkd := rfl
@[simp] theorem advanceTagpos_work_aidx (s : State) : (advanceTagpos s).work.aidx = s.work.aidx := rfl
@[simp] theorem advanceTagpos_work_idx (s : State) : (advanceTagpos s).work.idx = s.work.idx := rfl
@[simp] theorem advanceTagpos_work_tagpos (s : State) : (advanceTagpos s).work.tagpos = s.work.tagpos + 16#64 := rfl
@[simp] theorem advanceTagpos_dec (s : State) : (advanceTagpos s).dec = s.dec := rfl
@[simp] theorem advanceTagpos_periodic (s : State) : (advanceTagpos s).periodic = s.periodic := rfl
@[simp] theorem advanceTagpos_wide (s : State) : (advanceTagpos s).wide = s.wide := rfl
@[simp] theorem advanceTagpos_mlen (s : State) : (advanceTagpos s).mlen = s.mlen := rfl
@[simp] theorem advanceTagpos_rlen (s : State) : (advanceTagpos s).rlen = s.rlen := rfl
@[simp] theorem advanceTagpos_nblk (s : State) : (advanceTagpos s).nblk = s.nblk := rfl
@[simp] theorem advanceTagpos_nnf (s : State) : (advanceTagpos s).nnf = s.nnf := rfl
@[simp] theorem advanceTagpos_tlen (s : State) : (advanceTagpos s).tlen = s.tlen := rfl
@[simp] theorem advanceTagpos_ntag (s : State) : (advanceTagpos s).ntag = s.ntag := rfl
@[simp] theorem advanceTagpos_afull (s : State) : (advanceTagpos s).afull = s.afull := rfl
@[simp] theorem advanceTagpos_arlen (s : State) : (advanceTagpos s).arlen = s.arlen := rfl
@[simp] theorem advanceTagpos_spaceSize (s : State) (sp : Space) : (advanceTagpos s).spaceSize sp = s.spaceSize sp := rfl
@[simp] theorem advanceTagpos_cadence (s : State) (i : Len) : (advanceTagpos s).cadence i = s.cadence i := rfl

/-! ## `absorb` -/

@[simp] theorem absorb_host (c : Setup) (da a : Block) (s : State) : (absorb c da a s).host = s.host := rfl
@[simp] theorem absorb_latch (c : Setup) (da a : Block) (s : State) : (absorb c da a s).latch = s.latch := rfl
@[simp] theorem absorb_busy (c : Setup) (da a : Block) (s : State) : (absorb c da a s).busy = s.busy := rfl
@[simp] theorem absorb_done (c : Setup) (da a : Block) (s : State) : (absorb c da a s).done = s.done := rfl
@[simp] theorem absorb_status (c : Setup) (da a : Block) (s : State) : (absorb c da a s).status = s.status := rfl
@[simp] theorem absorb_outlen (c : Setup) (da a : Block) (s : State) : (absorb c da a s).outlen = s.outlen := rfl
@[simp] theorem absorb_tagoutlen (c : Setup) (da a : Block) (s : State) : (absorb c da a s).tagoutlen = s.tagoutlen := rfl
@[simp] theorem absorb_reported (c : Setup) (da a : Block) (s : State) : (absorb c da a s).reported = s.reported := rfl
@[simp] theorem absorb_phase (c : Setup) (da a : Block) (s : State) : (absorb c da a s).phase = s.phase := rfl
@[simp] theorem absorb_mem (c : Setup) (da a : Block) (s : State) : (absorb c da a s).mem = s.mem := rfl
@[simp] theorem absorb_ports (c : Setup) (da a : Block) (s : State) : (absorb c da a s).ports = s.ports := rfl
@[simp] theorem absorb_inbox (c : Setup) (da a : Block) (s : State) : (absorb c da a s).inbox = s.inbox := rfl
@[simp] theorem absorb_issueWord (c : Setup) (da a : Block) (s : State) : (absorb c da a s).issueWord = s.issueWord := rfl
@[simp] theorem absorb_readout (c : Setup) (da a : Block) (s : State) : (absorb c da a s).readout = s.readout := rfl
@[simp] theorem absorb_fresh (c : Setup) (da a : Block) (s : State) : (absorb c da a s).fresh = s.fresh := rfl
@[simp] theorem absorb_work_l (c : Setup) (da a : Block) (s : State) : (absorb c da a s).work.l = s.work.l := rfl
@[simp] theorem absorb_work_dm (c : Setup) (da a : Block) (s : State) : (absorb c da a s).work.dm = s.work.dm := rfl
@[simp] theorem absorb_work_dc (c : Setup) (da a : Block) (s : State) : (absorb c da a s).work.dc = s.work.dc := rfl
@[simp] theorem absorb_work_da (c : Setup) (da a : Block) (s : State) : (absorb c da a s).work.da = da := rfl
@[simp] theorem absorb_work_seed (c : Setup) (da a : Block) (s : State) : (absorb c da a s).work.seed = s.work.seed := rfl
@[simp] theorem absorb_work_v (c : Setup) (da a : Block) (s : State) : (absorb c da a s).work.v = s.work.v ^^^ encipher c s (a ^^^ da) := rfl
@[simp] theorem absorb_work_w (c : Setup) (da a : Block) (s : State) : (absorb c da a s).work.w = s.work.w := rfl
@[simp] theorem absorb_work_cs (c : Setup) (da a : Block) (s : State) : (absorb c da a s).work.cs = s.work.cs := rfl
@[simp] theorem absorb_work_t (c : Setup) (da a : Block) (s : State) : (absorb c da a s).work.t = s.work.t := rfl
@[simp] theorem absorb_work_pf (c : Setup) (da a : Block) (s : State) : (absorb c da a s).work.pf = s.work.pf := rfl
@[simp] theorem absorb_work_rke (c : Setup) (da a : Block) (s : State) : (absorb c da a s).work.rke = s.work.rke := rfl
@[simp] theorem absorb_work_rkd (c : Setup) (da a : Block) (s : State) : (absorb c da a s).work.rkd = s.work.rkd := rfl
@[simp] theorem absorb_work_aidx (c : Setup) (da a : Block) (s : State) : (absorb c da a s).work.aidx = s.work.aidx := rfl
@[simp] theorem absorb_work_idx (c : Setup) (da a : Block) (s : State) : (absorb c da a s).work.idx = s.work.idx := rfl
@[simp] theorem absorb_work_tagpos (c : Setup) (da a : Block) (s : State) : (absorb c da a s).work.tagpos = s.work.tagpos := rfl
@[simp] theorem absorb_dec (c : Setup) (da a : Block) (s : State) : (absorb c da a s).dec = s.dec := rfl
@[simp] theorem absorb_periodic (c : Setup) (da a : Block) (s : State) : (absorb c da a s).periodic = s.periodic := rfl
@[simp] theorem absorb_wide (c : Setup) (da a : Block) (s : State) : (absorb c da a s).wide = s.wide := rfl
@[simp] theorem absorb_mlen (c : Setup) (da a : Block) (s : State) : (absorb c da a s).mlen = s.mlen := rfl
@[simp] theorem absorb_rlen (c : Setup) (da a : Block) (s : State) : (absorb c da a s).rlen = s.rlen := rfl
@[simp] theorem absorb_nblk (c : Setup) (da a : Block) (s : State) : (absorb c da a s).nblk = s.nblk := rfl
@[simp] theorem absorb_nnf (c : Setup) (da a : Block) (s : State) : (absorb c da a s).nnf = s.nnf := rfl
@[simp] theorem absorb_tlen (c : Setup) (da a : Block) (s : State) : (absorb c da a s).tlen = s.tlen := rfl
@[simp] theorem absorb_ntag (c : Setup) (da a : Block) (s : State) : (absorb c da a s).ntag = s.ntag := rfl
@[simp] theorem absorb_afull (c : Setup) (da a : Block) (s : State) : (absorb c da a s).afull = s.afull := rfl
@[simp] theorem absorb_arlen (c : Setup) (da a : Block) (s : State) : (absorb c da a s).arlen = s.arlen := rfl
@[simp] theorem absorb_spaceSize (c : Setup) (da a : Block) (s : State) (sp : Space) : (absorb c da a s).spaceSize sp = s.spaceSize sp := rfl
@[simp] theorem absorb_cadence (c : Setup) (da a : Block) (s : State) (i : Len) : (absorb c da a s).cadence i = s.cadence i := rfl

/-! ## `encBlock` -/

@[simp] theorem encBlock_host (c : Setup) (p : Block) (s : State) : (encBlock c p s).2.host = s.host := rfl
@[simp] theorem encBlock_latch (c : Setup) (p : Block) (s : State) : (encBlock c p s).2.latch = s.latch := rfl
@[simp] theorem encBlock_busy (c : Setup) (p : Block) (s : State) : (encBlock c p s).2.busy = s.busy := rfl
@[simp] theorem encBlock_done (c : Setup) (p : Block) (s : State) : (encBlock c p s).2.done = s.done := rfl
@[simp] theorem encBlock_status (c : Setup) (p : Block) (s : State) : (encBlock c p s).2.status = s.status := rfl
@[simp] theorem encBlock_outlen (c : Setup) (p : Block) (s : State) : (encBlock c p s).2.outlen = s.outlen := rfl
@[simp] theorem encBlock_tagoutlen (c : Setup) (p : Block) (s : State) : (encBlock c p s).2.tagoutlen = s.tagoutlen := rfl
@[simp] theorem encBlock_reported (c : Setup) (p : Block) (s : State) : (encBlock c p s).2.reported = s.reported := rfl
@[simp] theorem encBlock_phase (c : Setup) (p : Block) (s : State) : (encBlock c p s).2.phase = s.phase := rfl
@[simp] theorem encBlock_mem (c : Setup) (p : Block) (s : State) : (encBlock c p s).2.mem = s.mem := rfl
@[simp] theorem encBlock_ports (c : Setup) (p : Block) (s : State) : (encBlock c p s).2.ports = s.ports := rfl
@[simp] theorem encBlock_inbox (c : Setup) (p : Block) (s : State) : (encBlock c p s).2.inbox = s.inbox := rfl
@[simp] theorem encBlock_issueWord (c : Setup) (p : Block) (s : State) : (encBlock c p s).2.issueWord = s.issueWord := rfl
@[simp] theorem encBlock_readout (c : Setup) (p : Block) (s : State) : (encBlock c p s).2.readout = s.readout := rfl
@[simp] theorem encBlock_fresh (c : Setup) (p : Block) (s : State) : (encBlock c p s).2.fresh = s.fresh := rfl
@[simp] theorem encBlock_work_l (c : Setup) (p : Block) (s : State) : (encBlock c p s).2.work.l = s.work.l := rfl
@[simp] theorem encBlock_work_dm (c : Setup) (p : Block) (s : State) : (encBlock c p s).2.work.dm = s.work.dm := rfl
@[simp] theorem encBlock_work_dc (c : Setup) (p : Block) (s : State) : (encBlock c p s).2.work.dc = s.work.dc := rfl
@[simp] theorem encBlock_work_da (c : Setup) (p : Block) (s : State) : (encBlock c p s).2.work.da = s.work.da := rfl
@[simp] theorem encBlock_work_seed (c : Setup) (p : Block) (s : State) : (encBlock c p s).2.work.seed = s.work.seed := rfl
@[simp] theorem encBlock_work_v (c : Setup) (p : Block) (s : State) : (encBlock c p s).2.work.v = s.work.v := rfl
@[simp] theorem encBlock_work_w (c : Setup) (p : Block) (s : State) : (encBlock c p s).2.work.w = (rho (encipher c s (p ^^^ s.work.dm)) s.work.w).2 := rfl
@[simp] theorem encBlock_work_cs (c : Setup) (p : Block) (s : State) : (encBlock c p s).2.work.cs = s.work.cs := rfl
@[simp] theorem encBlock_work_t (c : Setup) (p : Block) (s : State) : (encBlock c p s).2.work.t = s.work.t := rfl
@[simp] theorem encBlock_work_pf (c : Setup) (p : Block) (s : State) : (encBlock c p s).2.work.pf = s.work.pf := rfl
@[simp] theorem encBlock_work_rke (c : Setup) (p : Block) (s : State) : (encBlock c p s).2.work.rke = s.work.rke := rfl
@[simp] theorem encBlock_work_rkd (c : Setup) (p : Block) (s : State) : (encBlock c p s).2.work.rkd = s.work.rkd := rfl
@[simp] theorem encBlock_work_aidx (c : Setup) (p : Block) (s : State) : (encBlock c p s).2.work.aidx = s.work.aidx := rfl
@[simp] theorem encBlock_work_idx (c : Setup) (p : Block) (s : State) : (encBlock c p s).2.work.idx = s.work.idx := rfl
@[simp] theorem encBlock_work_tagpos (c : Setup) (p : Block) (s : State) : (encBlock c p s).2.work.tagpos = s.work.tagpos := rfl
@[simp] theorem encBlock_dec (c : Setup) (p : Block) (s : State) : (encBlock c p s).2.dec = s.dec := rfl
@[simp] theorem encBlock_periodic (c : Setup) (p : Block) (s : State) : (encBlock c p s).2.periodic = s.periodic := rfl
@[simp] theorem encBlock_wide (c : Setup) (p : Block) (s : State) : (encBlock c p s).2.wide = s.wide := rfl
@[simp] theorem encBlock_mlen (c : Setup) (p : Block) (s : State) : (encBlock c p s).2.mlen = s.mlen := rfl
@[simp] theorem encBlock_rlen (c : Setup) (p : Block) (s : State) : (encBlock c p s).2.rlen = s.rlen := rfl
@[simp] theorem encBlock_nblk (c : Setup) (p : Block) (s : State) : (encBlock c p s).2.nblk = s.nblk := rfl
@[simp] theorem encBlock_nnf (c : Setup) (p : Block) (s : State) : (encBlock c p s).2.nnf = s.nnf := rfl
@[simp] theorem encBlock_tlen (c : Setup) (p : Block) (s : State) : (encBlock c p s).2.tlen = s.tlen := rfl
@[simp] theorem encBlock_ntag (c : Setup) (p : Block) (s : State) : (encBlock c p s).2.ntag = s.ntag := rfl
@[simp] theorem encBlock_afull (c : Setup) (p : Block) (s : State) : (encBlock c p s).2.afull = s.afull := rfl
@[simp] theorem encBlock_arlen (c : Setup) (p : Block) (s : State) : (encBlock c p s).2.arlen = s.arlen := rfl
@[simp] theorem encBlock_spaceSize (c : Setup) (p : Block) (s : State) (sp : Space) : (encBlock c p s).2.spaceSize sp = s.spaceSize sp := rfl
@[simp] theorem encBlock_cadence (c : Setup) (p : Block) (s : State) (i : Len) : (encBlock c p s).2.cadence i = s.cadence i := rfl

/-! ## `decBlock` -/

@[simp] theorem decBlock_host (c : Setup) (x : Block) (s : State) : (decBlock c x s).2.host = s.host := rfl
@[simp] theorem decBlock_latch (c : Setup) (x : Block) (s : State) : (decBlock c x s).2.latch = s.latch := rfl
@[simp] theorem decBlock_busy (c : Setup) (x : Block) (s : State) : (decBlock c x s).2.busy = s.busy := rfl
@[simp] theorem decBlock_done (c : Setup) (x : Block) (s : State) : (decBlock c x s).2.done = s.done := rfl
@[simp] theorem decBlock_status (c : Setup) (x : Block) (s : State) : (decBlock c x s).2.status = s.status := rfl
@[simp] theorem decBlock_outlen (c : Setup) (x : Block) (s : State) : (decBlock c x s).2.outlen = s.outlen := rfl
@[simp] theorem decBlock_tagoutlen (c : Setup) (x : Block) (s : State) : (decBlock c x s).2.tagoutlen = s.tagoutlen := rfl
@[simp] theorem decBlock_reported (c : Setup) (x : Block) (s : State) : (decBlock c x s).2.reported = s.reported := rfl
@[simp] theorem decBlock_phase (c : Setup) (x : Block) (s : State) : (decBlock c x s).2.phase = s.phase := rfl
@[simp] theorem decBlock_mem (c : Setup) (x : Block) (s : State) : (decBlock c x s).2.mem = s.mem := rfl
@[simp] theorem decBlock_ports (c : Setup) (x : Block) (s : State) : (decBlock c x s).2.ports = s.ports := rfl
@[simp] theorem decBlock_inbox (c : Setup) (x : Block) (s : State) : (decBlock c x s).2.inbox = s.inbox := rfl
@[simp] theorem decBlock_issueWord (c : Setup) (x : Block) (s : State) : (decBlock c x s).2.issueWord = s.issueWord := rfl
@[simp] theorem decBlock_readout (c : Setup) (x : Block) (s : State) : (decBlock c x s).2.readout = s.readout := rfl
@[simp] theorem decBlock_fresh (c : Setup) (x : Block) (s : State) : (decBlock c x s).2.fresh = s.fresh := rfl
@[simp] theorem decBlock_work_l (c : Setup) (x : Block) (s : State) : (decBlock c x s).2.work.l = s.work.l := rfl
@[simp] theorem decBlock_work_dm (c : Setup) (x : Block) (s : State) : (decBlock c x s).2.work.dm = s.work.dm := rfl
@[simp] theorem decBlock_work_dc (c : Setup) (x : Block) (s : State) : (decBlock c x s).2.work.dc = s.work.dc := rfl
@[simp] theorem decBlock_work_da (c : Setup) (x : Block) (s : State) : (decBlock c x s).2.work.da = s.work.da := rfl
@[simp] theorem decBlock_work_seed (c : Setup) (x : Block) (s : State) : (decBlock c x s).2.work.seed = s.work.seed := rfl
@[simp] theorem decBlock_work_v (c : Setup) (x : Block) (s : State) : (decBlock c x s).2.work.v = s.work.v := rfl
@[simp] theorem decBlock_work_w (c : Setup) (x : Block) (s : State) : (decBlock c x s).2.work.w = (rhoInv (decipher c s (x ^^^ s.work.dc)) s.work.w).2 := rfl
@[simp] theorem decBlock_work_cs (c : Setup) (x : Block) (s : State) : (decBlock c x s).2.work.cs = s.work.cs := rfl
@[simp] theorem decBlock_work_t (c : Setup) (x : Block) (s : State) : (decBlock c x s).2.work.t = s.work.t := rfl
@[simp] theorem decBlock_work_pf (c : Setup) (x : Block) (s : State) : (decBlock c x s).2.work.pf = s.work.pf := rfl
@[simp] theorem decBlock_work_rke (c : Setup) (x : Block) (s : State) : (decBlock c x s).2.work.rke = s.work.rke := rfl
@[simp] theorem decBlock_work_rkd (c : Setup) (x : Block) (s : State) : (decBlock c x s).2.work.rkd = s.work.rkd := rfl
@[simp] theorem decBlock_work_aidx (c : Setup) (x : Block) (s : State) : (decBlock c x s).2.work.aidx = s.work.aidx := rfl
@[simp] theorem decBlock_work_idx (c : Setup) (x : Block) (s : State) : (decBlock c x s).2.work.idx = s.work.idx := rfl
@[simp] theorem decBlock_work_tagpos (c : Setup) (x : Block) (s : State) : (decBlock c x s).2.work.tagpos = s.work.tagpos := rfl
@[simp] theorem decBlock_dec (c : Setup) (x : Block) (s : State) : (decBlock c x s).2.dec = s.dec := rfl
@[simp] theorem decBlock_periodic (c : Setup) (x : Block) (s : State) : (decBlock c x s).2.periodic = s.periodic := rfl
@[simp] theorem decBlock_wide (c : Setup) (x : Block) (s : State) : (decBlock c x s).2.wide = s.wide := rfl
@[simp] theorem decBlock_mlen (c : Setup) (x : Block) (s : State) : (decBlock c x s).2.mlen = s.mlen := rfl
@[simp] theorem decBlock_rlen (c : Setup) (x : Block) (s : State) : (decBlock c x s).2.rlen = s.rlen := rfl
@[simp] theorem decBlock_nblk (c : Setup) (x : Block) (s : State) : (decBlock c x s).2.nblk = s.nblk := rfl
@[simp] theorem decBlock_nnf (c : Setup) (x : Block) (s : State) : (decBlock c x s).2.nnf = s.nnf := rfl
@[simp] theorem decBlock_tlen (c : Setup) (x : Block) (s : State) : (decBlock c x s).2.tlen = s.tlen := rfl
@[simp] theorem decBlock_ntag (c : Setup) (x : Block) (s : State) : (decBlock c x s).2.ntag = s.ntag := rfl
@[simp] theorem decBlock_afull (c : Setup) (x : Block) (s : State) : (decBlock c x s).2.afull = s.afull := rfl
@[simp] theorem decBlock_arlen (c : Setup) (x : Block) (s : State) : (decBlock c x s).2.arlen = s.arlen := rfl
@[simp] theorem decBlock_spaceSize (c : Setup) (x : Block) (s : State) (sp : Space) : (decBlock c x s).2.spaceSize sp = s.spaceSize sp := rfl
@[simp] theorem decBlock_cadence (c : Setup) (x : Block) (s : State) (i : Len) : (decBlock c x s).2.cadence i = s.cadence i := rfl

/-! ## `advanceMsg` -/

@[simp] theorem advanceMsg_host (n : Len) (s : State) : (advanceMsg n s).host = s.host := rfl
@[simp] theorem advanceMsg_latch (n : Len) (s : State) : (advanceMsg n s).latch = s.latch := rfl
@[simp] theorem advanceMsg_busy (n : Len) (s : State) : (advanceMsg n s).busy = s.busy := rfl
@[simp] theorem advanceMsg_done (n : Len) (s : State) : (advanceMsg n s).done = s.done := rfl
@[simp] theorem advanceMsg_status (n : Len) (s : State) : (advanceMsg n s).status = s.status := rfl
@[simp] theorem advanceMsg_outlen (n : Len) (s : State) : (advanceMsg n s).outlen = s.outlen := rfl
@[simp] theorem advanceMsg_tagoutlen (n : Len) (s : State) : (advanceMsg n s).tagoutlen = s.tagoutlen := rfl
@[simp] theorem advanceMsg_reported (n : Len) (s : State) : (advanceMsg n s).reported = s.reported := rfl
@[simp] theorem advanceMsg_phase (n : Len) (s : State) : (advanceMsg n s).phase = if (s.work.idx + n).toNat ≤ s.nnf then .msg else .finOfs := rfl
@[simp] theorem advanceMsg_mem (n : Len) (s : State) : (advanceMsg n s).mem = s.mem := rfl
@[simp] theorem advanceMsg_ports (n : Len) (s : State) : (advanceMsg n s).ports = s.ports := rfl
@[simp] theorem advanceMsg_inbox (n : Len) (s : State) : (advanceMsg n s).inbox = s.inbox := rfl
@[simp] theorem advanceMsg_issueWord (n : Len) (s : State) : (advanceMsg n s).issueWord = s.issueWord := rfl
@[simp] theorem advanceMsg_readout (n : Len) (s : State) : (advanceMsg n s).readout = s.readout := rfl
@[simp] theorem advanceMsg_fresh (n : Len) (s : State) : (advanceMsg n s).fresh = s.fresh := rfl
@[simp] theorem advanceMsg_work_l (n : Len) (s : State) : (advanceMsg n s).work.l = s.work.l := rfl
@[simp] theorem advanceMsg_work_dm (n : Len) (s : State) : (advanceMsg n s).work.dm = s.work.dm := rfl
@[simp] theorem advanceMsg_work_dc (n : Len) (s : State) : (advanceMsg n s).work.dc = s.work.dc := rfl
@[simp] theorem advanceMsg_work_da (n : Len) (s : State) : (advanceMsg n s).work.da = s.work.da := rfl
@[simp] theorem advanceMsg_work_seed (n : Len) (s : State) : (advanceMsg n s).work.seed = s.work.seed := rfl
@[simp] theorem advanceMsg_work_v (n : Len) (s : State) : (advanceMsg n s).work.v = s.work.v := rfl
@[simp] theorem advanceMsg_work_w (n : Len) (s : State) : (advanceMsg n s).work.w = s.work.w := rfl
@[simp] theorem advanceMsg_work_cs (n : Len) (s : State) : (advanceMsg n s).work.cs = s.work.cs := rfl
@[simp] theorem advanceMsg_work_t (n : Len) (s : State) : (advanceMsg n s).work.t = s.work.t := rfl
@[simp] theorem advanceMsg_work_pf (n : Len) (s : State) : (advanceMsg n s).work.pf = s.work.pf := rfl
@[simp] theorem advanceMsg_work_rke (n : Len) (s : State) : (advanceMsg n s).work.rke = s.work.rke := rfl
@[simp] theorem advanceMsg_work_rkd (n : Len) (s : State) : (advanceMsg n s).work.rkd = s.work.rkd := rfl
@[simp] theorem advanceMsg_work_aidx (n : Len) (s : State) : (advanceMsg n s).work.aidx = s.work.aidx := rfl
@[simp] theorem advanceMsg_work_idx (n : Len) (s : State) : (advanceMsg n s).work.idx = s.work.idx + n := rfl
@[simp] theorem advanceMsg_work_tagpos (n : Len) (s : State) : (advanceMsg n s).work.tagpos = s.work.tagpos := rfl
@[simp] theorem advanceMsg_dec (n : Len) (s : State) : (advanceMsg n s).dec = s.dec := rfl
@[simp] theorem advanceMsg_periodic (n : Len) (s : State) : (advanceMsg n s).periodic = s.periodic := rfl
@[simp] theorem advanceMsg_wide (n : Len) (s : State) : (advanceMsg n s).wide = s.wide := rfl
@[simp] theorem advanceMsg_mlen (n : Len) (s : State) : (advanceMsg n s).mlen = s.mlen := rfl
@[simp] theorem advanceMsg_rlen (n : Len) (s : State) : (advanceMsg n s).rlen = s.rlen := rfl
@[simp] theorem advanceMsg_nblk (n : Len) (s : State) : (advanceMsg n s).nblk = s.nblk := rfl
@[simp] theorem advanceMsg_nnf (n : Len) (s : State) : (advanceMsg n s).nnf = s.nnf := rfl
@[simp] theorem advanceMsg_tlen (n : Len) (s : State) : (advanceMsg n s).tlen = s.tlen := rfl
@[simp] theorem advanceMsg_ntag (n : Len) (s : State) : (advanceMsg n s).ntag = s.ntag := rfl
@[simp] theorem advanceMsg_afull (n : Len) (s : State) : (advanceMsg n s).afull = s.afull := rfl
@[simp] theorem advanceMsg_arlen (n : Len) (s : State) : (advanceMsg n s).arlen = s.arlen := rfl
@[simp] theorem advanceMsg_spaceSize (n : Len) (s : State) (sp : Space) : (advanceMsg n s).spaceSize sp = s.spaceSize sp := rfl
@[simp] theorem advanceMsg_cadence (n : Len) (s : State) (i : Len) : (advanceMsg n s).cadence i = s.cadence i := rfl

/-! ## `haltWith` -/

@[simp] theorem haltWith_host (st : Status) (s : State) : (haltWith st s).host = s.host := rfl
@[simp] theorem haltWith_latch (st : Status) (s : State) : (haltWith st s).latch = s.latch := rfl
@[simp] theorem haltWith_busy (st : Status) (s : State) : (haltWith st s).busy = false := rfl
@[simp] theorem haltWith_done (st : Status) (s : State) : (haltWith st s).done = true := rfl
@[simp] theorem haltWith_status (st : Status) (s : State) : (haltWith st s).status = st := rfl
@[simp] theorem haltWith_outlen (st : Status) (s : State) : (haltWith st s).outlen = haltOutlen st s := rfl
@[simp] theorem haltWith_tagoutlen (st : Status) (s : State) : (haltWith st s).tagoutlen = haltTagoutlen st s := rfl
@[simp] theorem haltWith_reported (st : Status) (s : State) :
    (haltWith st s).reported = ⟨haltOutlen st s, haltTagoutlen st s⟩ := rfl
@[simp] theorem haltWith_phase (st : Status) (s : State) : (haltWith st s).phase = .idle := rfl
@[simp] theorem haltWith_ports (st : Status) (s : State) : (haltWith st s).ports = s.ports := rfl
@[simp] theorem haltWith_inbox (st : Status) (s : State) : (haltWith st s).inbox = s.inbox := rfl
@[simp] theorem haltWith_issueWord (st : Status) (s : State) : (haltWith st s).issueWord = s.issueWord := rfl
@[simp] theorem haltWith_readout (st : Status) (s : State) : (haltWith st s).readout = s.readout := rfl
@[simp] theorem haltWith_fresh (st : Status) (s : State) : (haltWith st s).fresh = s.fresh + 1 := rfl
@[simp] theorem haltWith_work (st : Status) (s : State) : (haltWith st s).work = .unspecified s.fresh := rfl
@[simp] theorem haltWith_mem_key (st : Status) (s : State) : (haltWith st s).mem.key = s.mem.key := rfl
@[simp] theorem haltWith_mem_nonce (st : Status) (s : State) : (haltWith st s).mem.nonce = s.mem.nonce := rfl
@[simp] theorem haltWith_mem_ad (st : Status) (s : State) : (haltWith st s).mem.ad = s.mem.ad := rfl
@[simp] theorem haltWith_mem_input (st : Status) (s : State) : (haltWith st s).mem.input = s.mem.input := rfl
@[simp] theorem haltWith_mem_tagIn (st : Status) (s : State) : (haltWith st s).mem.tagIn = s.mem.tagIn := rfl

/-! ## `resetEvent` -/

@[simp] theorem resetEvent_host (s : State) : (resetEvent s).host = .zero := rfl
@[simp] theorem resetEvent_latch (s : State) : (resetEvent s).latch = .zero := rfl
@[simp] theorem resetEvent_busy (s : State) : (resetEvent s).busy = false := rfl
@[simp] theorem resetEvent_done (s : State) : (resetEvent s).done = false := rfl
@[simp] theorem resetEvent_status (s : State) : (resetEvent s).status = .success := rfl
@[simp] theorem resetEvent_outlen (s : State) : (resetEvent s).outlen = 0#64 := rfl
@[simp] theorem resetEvent_tagoutlen (s : State) : (resetEvent s).tagoutlen = 0#64 := rfl
@[simp] theorem resetEvent_reported (s : State) : (resetEvent s).reported = ⟨0#64, 0#64⟩ := rfl
@[simp] theorem resetEvent_phase (s : State) : (resetEvent s).phase = .idle := rfl
@[simp] theorem resetEvent_mem (s : State) : (resetEvent s).mem = .unknown s.fresh := rfl
@[simp] theorem resetEvent_ports (s : State) : (resetEvent s).ports = s.ports := rfl
@[simp] theorem resetEvent_inbox (s : State) : (resetEvent s).inbox = s.inbox := rfl
@[simp] theorem resetEvent_issueWord (s : State) : (resetEvent s).issueWord = s.issueWord := rfl
@[simp] theorem resetEvent_readout (s : State) : (resetEvent s).readout = s.readout := rfl
@[simp] theorem resetEvent_fresh (s : State) : (resetEvent s).fresh = s.fresh + 1 := rfl

end Sys2Proof.Machine
end

