-- ==== Sys2Proof/Laws/Ops.lean ====
section
/-! SUPPORT. One lemma per shared operation that says once everything it can do, for later proofs to cite. -/

namespace Sys2Proof.Machine

/-! ## Flow -/

@[simp] theorem Flow.andThen_go (s : State) (k : State → Flow) : (Flow.go s).andThen k = k s := rfl

@[simp] theorem Flow.andThen_halt (st : Status) (s : State) (k : State → Flow) :
    (Flow.halt st s).andThen k = .halt st s := rfl

@[simp] theorem Flow.andThen_fault (r : Fault) (k : State → Flow) : (Flow.fault r).andThen k = .fault r := rfl

@[simp] theorem Flow.finish_go (s : State) : (Flow.go s).finish = .next s := rfl

@[simp] theorem Flow.finish_halt (st : Status) (s : State) : (Flow.halt st s).finish = .next (haltWith st s) := rfl

@[simp] theorem Flow.finish_fault (r : Fault) : (Flow.fault r).finish = .fault r := rfl

theorem Flow.andThen_eq_go {f : Flow} {k : State → Flow} {t : State} :
    f.andThen k = .go t ↔ ∃ s, f = .go s ∧ k s = .go t := by
  cases f <;> simp

theorem Flow.andThen_eq_halt {f : Flow} {k : State → Flow} {st : Status} {t : State} :
    f.andThen k = .halt st t ↔ f = .halt st t ∨ ∃ s, f = .go s ∧ k s = .halt st t := by
  cases f <;> simp

theorem Flow.finish_eq_next {f : Flow} {t : State} :
    f.finish = .next t ↔ f = .go t ∨ ∃ st s, f = .halt st s ∧ haltWith st s = t := by
  cases f <;> simp [Flow.finish]

/-- A micro-operation never ends in a refusal. -/
theorem Flow.finish_ne_refused (f : Flow) (r : Refusal) : f.finish ≠ .refused r := by
  cases f <;> simp [Flow.finish]

/-! ## Accesses inside a space -/

theorem inSpace_of_le {s : State} {sp : Space} {a n : Nat} {k : Flow} (h : a + n ≤ s.spaceSize sp) :
    inSpace s sp a n k = k := if_pos h

theorem inSpace_eq_go {s : State} {sp : Space} {a n : Nat} {k : Flow} {t : State} :
    inSpace s sp a n k = .go t ↔ a + n ≤ s.spaceSize sp ∧ k = .go t := by
  unfold inSpace; split_ifs with h <;> simp [h]

theorem inSpace_eq_halt {s : State} {sp : Space} {a n : Nat} {k : Flow} {st : Status} {t : State} :
    inSpace s sp a n k = .halt st t ↔ a + n ≤ s.spaceSize sp ∧ k = .halt st t := by
  unfold inSpace; split_ifs with h <;> simp [h]

theorem loadBlock_of_le {s : State} {sp : Space} {a : Nat} {k : Block → Flow} (h : a + 16 ≤ s.spaceSize sp) :
    loadBlock s sp a k = k (s.mem.loadBlock sp a) := inSpace_of_le h

theorem loadPartial_of_le {s : State} {sp : Space} {a n : Nat} {k : Block → Flow} (h : a + n ≤ s.spaceSize sp) :
    loadPartial s sp a n k = k (s.mem.loadPartial sp a n) := inSpace_of_le h

theorem readBytes_of_le {s : State} {sp : Space} {a n : Nat} {k : List Byte → Flow} (h : a + n ≤ s.spaceSize sp) :
    readBytes s sp a n k = k (s.mem.read sp a n) := inSpace_of_le h

theorem storePartial_of_le {s : State} {sp : Space} {a n : Nat} {x : Block} (h : a + n ≤ s.spaceSize sp) :
    storePartial s sp a x n = .go { s with mem := s.mem.storeBlock sp a x n } := inSpace_of_le h

theorem storeBlock_of_le {s : State} {sp : Space} {a : Nat} {x : Block} (h : a + 16 ≤ s.spaceSize sp) :
    storeBlock s sp a x = .go { s with mem := s.mem.storeBlock sp a x 16 } := inSpace_of_le h

/-- All that a store can do when it goes on. -/
theorem storePartial_eq_go {s : State} {sp : Space} {a n : Nat} {x : Block} {t : State} :
    storePartial s sp a x n = .go t ↔
      a + n ≤ s.spaceSize sp ∧ { s with mem := s.mem.storeBlock sp a x n } = t := by
  simp [storePartial, inSpace_eq_go]

theorem storePartial_ne_halt {s : State} {sp : Space} {a n : Nat} {x : Block} {st : Status} {t : State} :
    storePartial s sp a x n ≠ .halt st t := by
  simp [storePartial, inSpace_eq_halt]

/-- The stores stay inside the 64-bit addresses. -/
theorem State.spaceSize_le (s : State) (sp : Space) : s.spaceSize sp ≤ 2 ^ 64 := by
  have hm : s.mlen < 2 ^ 64 := by
    unfold State.mlen; split_ifs <;> first | exact BitVec.isLt _ | exact lt_of_le_of_lt (Nat.sub_le ..) (BitVec.isLt _)
  have hi := s.latch.inlen.isLt
  have ha := s.latch.adlen.isLt
  have ht := s.latch.taginlen.isLt
  cases sp
  case key => simp [State.spaceSize]
  case nonce => simp [State.spaceSize]
  case ad => exact ha.le
  case input => exact hi.le
  case tagIn => exact ht.le
  case out => exact min_le_right ..
  case tagOut =>
    have : s.ntag ≤ s.nblk / 127 := by unfold State.ntag; split_ifs <;> omega
    have : s.nblk = (s.mlen + 15) / 16 := rfl
    simp only [State.spaceSize]
    omega

/-! ## Blocks and their memory images -/

theorem HoldsBytes_storeBlock (m : Memory) (sp : Space) (a n : Nat) (x : Block) (hn : n ≤ 16) :
    HoldsBytes (m.storeBlock sp a x n) sp a x n := by
  intro j hj
  rw [Memory.readByte_storeBlock _ _ _ _ _ _ _ hn, if_pos ⟨rfl, by omega, by omega⟩, Nat.add_sub_cancel_left]
  rfl

theorem SameOutside_storeBlock (m : Memory) (sp : Space) (a n : Nat) (x : Block) (hn : n ≤ 16) :
    SameOutside m (m.storeBlock sp a x n) sp a (a + n) := by
  intro sp' b hb
  rw [Memory.readByte_storeBlock _ _ _ _ _ _ _ hn, if_neg]
  rintro ⟨h1, h2, h3⟩
  rcases hb with h | h | h
  · exact h h1
  · omega
  · omega

theorem bytesOfBlock_getElem? (x : Block) (i : Nat) (h : i < 16) : (bytesOfBlock x)[i]? = some (imageByte x i) := by
  simp [bytesOfBlock, imageByte, h]

/-! ## HALT -/

/-- Everything HALT leaves (46_commands_sequencer.md R212), but for the values it makes unspecified. -/
theorem haltWith_halted (st : Status) (s : State) : HaltedWith st s (haltWith st s) where
  status := rfl
  outlen := rfl
  tagoutlen := rfl
  reported := rfl
  busy := rfl
  done := rfl
  phase := rfl
  host := rfl
  latch := rfl
  ports := rfl
  inbox := rfl
  issueWord := rfl
  readout := rfl
  inputs sp a h1 h2 := by cases sp <;> first | rfl | exact absurd rfl h1 | exact absurd rfl h2
  results a b ha hb := by
    have : cellAt (haltWith st s).mem.out.cells a = some b := by
      show cellAt (s.mem.out.cells.filter _) a = some b
      rw [cellAt_filter_lt, if_pos (show a < (haltOutlen st s).toNat from ha), hb]
    simp only [Memory.readByte, Memory.buf, this, Option.getD_some]
  tags a b ha hb := by
    have : cellAt (haltWith st s).mem.tagOut.cells a = some b := by
      show cellAt (s.mem.tagOut.cells.filter _) a = some b
      rw [cellAt_filter_lt, if_pos (show a < (haltTagoutlen st s).toNat from ha), hb]
    simp only [Memory.readByte, Memory.buf, this, Option.getD_some]

theorem haltOutlen_failure {st : Status} (s : State) (h : st ≠ .success) : haltOutlen st s = 0#64 := if_neg h

theorem haltTagoutlen_failure {st : Status} (s : State) (h : st ≠ .success) : haltTagoutlen st s = 0#64 :=
  if_neg fun hh => h hh.1

/-! ## Intermediate tags -/

/-- All that the check of an intermediate tag can do. -/
theorem itagCompare_cases (c : Setup) (dc : Block) (s : State) :
    itagCompare c dc s = .go (advanceTagpos s) ∧ ¬ tagStreamTooShort s = true ∧
        s.mem.read .tagIn s.work.tagpos.toNat 16 = bytesOfBlock (itagValue c dc s) ∨
      itagCompare c dc s = .halt .intermediateTagMismatch s := by
  unfold itagCompare
  split_ifs with h
  · exact .inr rfl
  · have hle : s.work.tagpos.toNat + 16 ≤ s.spaceSize .tagIn := by
      simpa [tagStreamTooShort, State.spaceSize] using h
    rw [readBytes_of_le hle]
    split_ifs with hr
    · exact .inl ⟨rfl, h, hr⟩
    · exact .inr rfl

/-- All that producing an intermediate tag can do when it goes on. -/
theorem itagGenStep_eq_go {c : Setup} {s t : State} :
    itagGenStep c s = .go t ↔
      s.work.tagpos.toNat + 16 ≤ s.spaceSize .tagOut ∧
        advanceTagpos { extraDouble s with
          mem := s.mem.storeBlock .tagOut s.work.tagpos.toNat (itagValue c (dbl s.work.dc) s) 16 } = t := by
  simp only [itagGenStep, storeBlock, Flow.andThen_eq_go, storePartial_eq_go]
  constructor
  · rintro ⟨u, ⟨h, rfl⟩, hu⟩
    exact ⟨h, Flow.go.inj hu⟩
  · rintro ⟨h, rfl⟩
    exact ⟨_, ⟨h, rfl⟩, rfl⟩

/-- What producing an intermediate tag does inside TAGOUT. -/
theorem itagGenStep_of_le {c : Setup} {s : State} (h : s.work.tagpos.toNat + 16 ≤ s.spaceSize .tagOut) :
    itagGenStep c s = .go (advanceTagpos { extraDouble s with
      mem := s.mem.storeBlock .tagOut s.work.tagpos.toNat (itagValue c (dbl s.work.dc) s) 16 }) :=
  itagGenStep_eq_go.mpr ⟨h, rfl⟩

theorem itagGenStep_ne_halt {c : Setup} {s t : State} {st : Status} : itagGenStep c s ≠ .halt st t := by
  simp [itagGenStep, storeBlock, Flow.andThen_eq_halt, storePartial_ne_halt]

/-! ## Groups and the final block -/

/-- The loads of a group whose three blocks lie inside IN. -/
theorem loadGroup_of_le {s : State} {k : Block × Block × Block → Flow}
    (h0 : blockAddr s.work.idx + 16 ≤ s.spaceSize .input)
    (h1 : blockAddr (s.work.idx + 1#64) + 16 ≤ s.spaceSize .input)
    (h2 : blockAddr (s.work.idx + 2#64) + 16 ≤ s.spaceSize .input) :
    loadGroup s k = k (s.mem.loadBlock .input (blockAddr s.work.idx),
      s.mem.loadBlock .input (blockAddr (s.work.idx + 1#64)), s.mem.loadBlock .input (blockAddr (s.work.idx + 2#64))) := by
  rw [loadGroup, loadBlock_of_le h0, loadBlock_of_le h1, loadBlock_of_le h2]

/-- The stores of a group whose three blocks lie inside OUT. -/
theorem storeGroup_of_le {s : State} {x : Block × Block × Block}
    (h0 : blockAddr s.work.idx + 16 ≤ s.spaceSize .out)
    (h1 : blockAddr (s.work.idx + 1#64) + 16 ≤ s.spaceSize .out)
    (h2 : blockAddr (s.work.idx + 2#64) + 16 ≤ s.spaceSize .out) :
    storeGroup x s = .go { s with
      mem := ((s.mem.storeBlock .out (blockAddr s.work.idx) x.1 16).storeBlock .out
        (blockAddr (s.work.idx + 1#64)) x.2.1 16).storeBlock .out (blockAddr (s.work.idx + 2#64)) x.2.2 16 } := by
  have e1 : ∀ m : Memory, ({ s with mem := m } : State).spaceSize .out = s.spaceSize .out := fun _ => rfl
  rw [storeGroup, storeBlock_of_le h0, Flow.andThen_go, storeBlock_of_le (by rw [e1]; exact h1), Flow.andThen_go,
    storeBlock_of_le (by rw [e1]; exact h2)]

/-- The load of the final plaintext block inside IN. -/
theorem loadFinal_of_le {s : State} {k : Block → Flow}
    (h : 16 * s.nnf + (if s.rlen = 0 then 16 else s.rlen) ≤ s.spaceSize .input) :
    loadFinal s k = k (if s.rlen = 0 then s.mem.loadBlock .input (16 * s.nnf)
      else s.mem.loadPartial .input (16 * s.nnf) s.rlen) := by
  unfold loadFinal
  split_ifs at h ⊢
  · exact loadBlock_of_le h
  · exact loadPartial_of_le h

/-! ## Commands and host accesses -/

/-- All that `START` can do when it answers a next state. -/
theorem launch_eq_next {w : BitVec 3} {s t : State} :
    launch w s = .next t ↔
      s.busy = true ∧ s = t ∨
        s.busy = false ∧ launchable w s = true ∧
          { s with latch := { s.host with cmd := w }, busy := true, done := false, phase := .check } = t := by
  unfold launch
  cases hb : s.busy <;> cases hl : launchable w s <;> simp

/-- All that a host access to a buffer can do when it answers a next state. -/
theorem hostBuffer_eq_next {s t u : State} {sp : Space} {a n : Nat} :
    hostBuffer s sp a n t = .next u ↔ s.busy = false ∧ a + n ≤ sp.hostBytes ∧ t = u := by
  unfold hostBuffer
  cases hb : s.busy <;> by_cases h : a + n ≤ sp.hostBytes <;> simp [h]

end Sys2Proof.Machine
end

