-- ==== Sys2Proof/Laws/PerInstr.lean ====
section
/-! SUPPORT. What holds of every instruction as syntax: its word is well formed (30_encoding.md R87). -/

namespace Sys2Proof.Laws

/-- The word of the instruction is one that the sequencer or the host can supply. -/
def EncodeWf.Statement (i : Instr) : Prop := (encode i).wf = true

theorem EncodeWf.colm0Enc : EncodeWf.Statement .colm0Enc := rfl
theorem EncodeWf.colm0Dec : EncodeWf.Statement .colm0Dec := rfl
theorem EncodeWf.colm127Enc : EncodeWf.Statement .colm127Enc := rfl
theorem EncodeWf.colm127Dec : EncodeWf.Statement .colm127Dec := rfl
theorem EncodeWf.colm0Enc3 : EncodeWf.Statement .colm0Enc3 := rfl
theorem EncodeWf.colm0Dec3 : EncodeWf.Statement .colm0Dec3 := rfl
theorem EncodeWf.colm127Enc3 : EncodeWf.Statement .colm127Enc3 := rfl
theorem EncodeWf.colm127Dec3 : EncodeWf.Statement .colm127Dec3 := rfl
theorem EncodeWf.gfDbl : EncodeWf.Statement .gfDbl := rfl
theorem EncodeWf.gfTpl : EncodeWf.Statement .gfTpl := rfl
theorem EncodeWf.gfSep : EncodeWf.Statement .gfSep := rfl
theorem EncodeWf.rhoFwd : EncodeWf.Statement .rhoFwd := rfl
theorem EncodeWf.rhoInv : EncodeWf.Statement .rhoInv := rfl
theorem EncodeWf.chkLen : EncodeWf.Statement .chkLen := rfl
theorem EncodeWf.init : EncodeWf.Statement .init := rfl
theorem EncodeWf.macSeed : EncodeWf.Statement .macSeed := rfl
theorem EncodeWf.macFull : EncodeWf.Statement .macFull := rfl
theorem EncodeWf.macFinal : EncodeWf.Statement .macFinal := rfl
theorem EncodeWf.macDone : EncodeWf.Statement .macDone := rfl
theorem EncodeWf.blkEnc : EncodeWf.Statement .blkEnc := rfl
theorem EncodeWf.blkDec : EncodeWf.Statement .blkDec := rfl
theorem EncodeWf.b3Enc : EncodeWf.Statement .b3Enc := rfl
theorem EncodeWf.b3Dec : EncodeWf.Statement .b3Dec := rfl
theorem EncodeWf.finOfs : EncodeWf.Statement .finOfs := rfl
theorem EncodeWf.finEnc : EncodeWf.Statement .finEnc := rfl
theorem EncodeWf.finDec : EncodeWf.Statement .finDec := rfl
theorem EncodeWf.itagGen : EncodeWf.Statement .itagGen := rfl
theorem EncodeWf.itagChk : EncodeWf.Statement .itagChk := rfl
theorem EncodeWf.tagGen : EncodeWf.Statement .tagGen := rfl
theorem EncodeWf.tagChk : EncodeWf.Statement .tagChk := rfl
theorem EncodeWf.padChk : EncodeWf.Statement .padChk := rfl
theorem EncodeWf.halt : EncodeWf.Statement .halt := rfl

end Sys2Proof.Laws
end

