-- ==== Sys2Proof/Tests/Slice0.lean ====
section
/-! SUPPORT. Tests: decoding word by word, the checks of WellFormed, the spec's worked examples (95_test_vectors.md, with
its toy cipher), and for every obligation with hypotheses a state that meets them. -/

namespace Sys2Proof.Tests

set_option maxRecDepth 20000

open Sys2Proof Sys2Proof.Machine

/-! ## Decoding: each word written out from 30_encoding.md R81, R83, R84, R86 -/

theorem test_decode_colm0Enc : decode (.cmd 0b000#3) = .ok .colm0Enc := rfl
theorem test_decode_colm0Dec : decode (.cmd 0b001#3) = .ok .colm0Dec := rfl
theorem test_decode_colm127Enc : decode (.cmd 0b010#3) = .ok .colm127Enc := rfl
theorem test_decode_colm127Dec : decode (.cmd 0b011#3) = .ok .colm127Dec := rfl
theorem test_decode_colm0Enc3 : decode (.cmd 0b100#3) = .ok .colm0Enc3 := rfl
theorem test_decode_colm0Dec3 : decode (.cmd 0b101#3) = .ok .colm0Dec3 := rfl
theorem test_decode_colm127Enc3 : decode (.cmd 0b110#3) = .ok .colm127Enc3 := rfl
theorem test_decode_colm127Dec3 : decode (.cmd 0b111#3) = .ok .colm127Dec3 := rfl
theorem test_decode_gfDbl : decode (.gfop 0b01#2) = .ok .gfDbl := rfl
theorem test_decode_gfTpl : decode (.gfop 0b10#2) = .ok .gfTpl := rfl
theorem test_decode_gfSep : decode (.gfop 0b11#2) = .ok .gfSep := rfl
theorem test_decode_rhoFwd : decode (.rhod 0b0#1) = .ok .rhoFwd := rfl
theorem test_decode_rhoInv : decode (.rhod 0b1#1) = .ok .rhoInv := rfl
theorem test_decode_chkLen : decode (.uop 0b00001#5) = .ok .chkLen := rfl
theorem test_decode_init : decode (.uop 0b00010#5) = .ok .init := rfl
theorem test_decode_macSeed : decode (.uop 0b00011#5) = .ok .macSeed := rfl
theorem test_decode_macFull : decode (.uop 0b00100#5) = .ok .macFull := rfl
theorem test_decode_macFinal : decode (.uop 0b00101#5) = .ok .macFinal := rfl
theorem test_decode_macDone : decode (.uop 0b00110#5) = .ok .macDone := rfl
theorem test_decode_blkEnc : decode (.uop 0b00111#5) = .ok .blkEnc := rfl
theorem test_decode_blkDec : decode (.uop 0b01000#5) = .ok .blkDec := rfl
theorem test_decode_b3Enc : decode (.uop 0b01001#5) = .ok .b3Enc := rfl
theorem test_decode_b3Dec : decode (.uop 0b01010#5) = .ok .b3Dec := rfl
theorem test_decode_finOfs : decode (.uop 0b01011#5) = .ok .finOfs := rfl
theorem test_decode_finEnc : decode (.uop 0b01100#5) = .ok .finEnc := rfl
theorem test_decode_finDec : decode (.uop 0b01101#5) = .ok .finDec := rfl
theorem test_decode_itagGen : decode (.uop 0b01110#5) = .ok .itagGen := rfl
theorem test_decode_itagChk : decode (.uop 0b01111#5) = .ok .itagChk := rfl
theorem test_decode_tagGen : decode (.uop 0b10000#5) = .ok .tagGen := rfl
theorem test_decode_tagChk : decode (.uop 0b10001#5) = .ok .tagChk := rfl
theorem test_decode_padChk : decode (.uop 0b10010#5) = .ok .padChk := rfl
theorem test_decode_halt : decode (.uop 0b10011#5) = .ok .halt := rfl

/-! ## Ill-formed words and events are refused (30_encoding.md R87, 20_memory.md R50) -/

theorem test_wf_refuses_gfop_00 : (CtrlWord.gfop 0b00#2).wf = false := by decide
theorem test_wf_refuses_uop_0 : (CtrlWord.uop 0b00000#5).wf = false := by decide
theorem test_wf_refuses_uop_20 : (CtrlWord.uop 0b10100#5).wf = false := by decide
theorem test_wf_refuses_key_past_16 : (HostEvent.writeBuf .key 15#64 [0#8, 0#8]).wf = false := by decide
theorem test_wf_refuses_nonce_past_8 : (HostEvent.writeBuf .nonce 8#64 [0#8]).wf = false := by decide
theorem test_wf_refuses_read_past_2_64 : (HostEvent.readBuf .out 18446744073709551615#64 2).wf = false := by decide
theorem test_wf_takes_key_16 : (HostEvent.writeBuf .key 0#64 (List.replicate 16 0#8)).wf = true := by decide

theorem test_decode_refuses_gfop_00 : decode (.gfop 0b00#2) = .error .gfopNeverIssued := rfl
theorem test_decode_refuses_uop_0 : decode (.uop 0b00000#5) = .error (.uopNeverGenerated 0#5) := rfl
theorem test_decode_refuses_uop_31 : decode (.uop 0b11111#5) = .error (.uopNeverGenerated 31#5) := rfl
theorem test_bits_above_refused : decodeBits 3 8 = .error (.bitsAboveFormat 8) := rfl
theorem test_width_refused : decodeBits 4 1 = .error (.noSuchFormat 4) := rfl
theorem test_table_halt : decodeTableWord 8 19 = some .halt := rfl
theorem test_table_refuses : decodeTableWord 8 20 = none := rfl

/-! ## The toy cipher and the common inputs of 95_test_vectors.md section 2 -/

/-- `rotl8`. -/
def rotl8 (x : Block) : Block := x <<< 8 ||| x >>> 120

/-- `rotr8`. -/
def rotr8 (x : Block) : Block := x >>> 8 ||| x <<< 120

theorem rotr8_rotl8 (x : Block) : rotr8 (rotl8 x) = x := by
  apply BitVec.eq_of_getLsbD_eq
  intro i hi
  simp only [rotr8, rotl8, BitVec.getLsbD_or, BitVec.getLsbD_shiftLeft, BitVec.getLsbD_ushiftRight]
  by_cases h : i < 120
  · simp [h, hi, show 8 + i < 128 by omega, show ¬ 8 + i < 8 by omega, show 128 ≤ 120 + (8 + i) by omega]
  · simp [h, hi, show ¬ 8 + i < 128 by omega, show i - 120 < 8 by omega, show i - 120 < 128 by omega,
      show 120 + (i - 120) = i by omega, BitVec.getLsbD_of_ge x (120 + (8 + i)) (by omega)]

theorem rotl8_rotr8 (x : Block) : rotl8 (rotr8 x) = x := by
  apply BitVec.eq_of_getLsbD_eq
  intro i hi
  simp only [rotr8, rotl8, BitVec.getLsbD_or, BitVec.getLsbD_shiftLeft, BitVec.getLsbD_ushiftRight]
  by_cases h : i < 8
  · simp [h, hi, show 120 + i < 128 by omega, show 128 ≤ 8 + (120 + i) by omega]
  · simp [h, hi, show 8 + (i - 8) = i by omega, show i - 8 < 120 by omega,
      show ¬ 120 + i < 128 by omega, BitVec.getLsbD_of_ge x (8 + (120 + i)) (by omega)]

/-- The toy cipher (95_test_vectors.md section 2). -/
def toy : Setup where
  ksEnc k := Vector.replicate 11 k
  ksDec s := s
  bcEnc s x := rotl8 (x ^^^ s[0])
  bcDec s y := rotr8 y ^^^ s[0]
  param0 := 0#64
  param127 := 0x7f#64
  dec_enc k x := by simp [rotr8_rotl8]
  enc_dec k x := by simp [rotl8_rotr8]
  params_differ := by decide

/-- `n` bytes counting up from `b`. -/
def up (b n : Nat) : List Byte := (List.range n).map fun i => BitVec.ofNat 8 (b + i)

/-- The state a flow ends in, before any HALT. -/
def endOf : Flow → State
  | .go s => s
  | .halt _ s => s
  | .fault _ => State.reset

/-- How a flow ends. -/
def verdict : Flow → Option Status
  | .halt st _ => some st
  | _ => none

/-- A state of a running command: command word, lengths, phase, working registers and memory. -/
def mid (cmd : BitVec 3) (adlen inlen taginlen : Len) (p : Phase) (w : Work) (m : Memory) : State :=
  { State.reset with
    latch := ⟨cmd, adlen, inlen, taginlen⟩, busy := true, phase := p, work := w, mem := m }

/-- The key of section 2 in both round-key files. -/
def keyed : Work :=
  { Work.zero with
    rke := Vector.replicate 11 0x000102030405060708090a0b0c0d0e0f#128
    rkd := Vector.replicate 11 0x000102030405060708090a0b0c0d0e0f#128 }

/-- The registers after MAC.DONE (43_colm0.md, head). -/
def afterMac : Work :=
  { keyed with
    dm := 0x0102030405060708090a0b0c0d0e0f00#128
    dc := 0x0306050c0f0a09181b1e1d1417121100#128
    w := 0xa4ad9a971990f75a444e78726c6600bb#128
    idx := 1#64 }

def empty : Memory := .unknown 0

/-! ## The unit operations (95_test_vectors.md sections 3, 4) -/

theorem test_dbl : dbl 0x80000000000000000000000000000001#128 = 0x85#128 := by decide
theorem test_dbl_example : dbl 0x000102030405060708090a0b0c0d0e0f#128 = 0x00020406080a0c0e10121416181a1c1e#128 := by decide
theorem test_tpl : tpl 0x80000000000000000000000000000000#128 = 0x80000000000000000000000000000087#128 := by decide
theorem test_sep : sep 0xc0000000000000000000000000000000#128 = 0x4000000000000000000000000000010e#128 := by decide
theorem test_halve : halve 0x85#128 = 0x80000000000000000000000000000001#128 := by decide
theorem test_rho : rho 0x000102030405060708090a0b0c0d0e0f#128 0xf0e0d0c0b0a090807060504030201000#128 =
    (0x11207342d5e4b78798a9facb5c6d3e88#128, 0xe1c0a38265442707e8c9aa8b6c4d2e88#128) := by decide
theorem test_rhoInv : rhoInv 0x11207342d5e4b78798a9facb5c6d3e88#128 0xf0e0d0c0b0a090807060504030201000#128 =
    (0x000102030405060708090a0b0c0d0e0f#128, 0xe1c0a38265442707e8c9aa8b6c4d2e88#128) := by decide

/-! ## Memory (20_memory.md R54, R55, R57) -/

theorem test_loadBlock : (empty.write .input 0 (up 0 16)).loadBlock .input 0 = 0x000102030405060708090a0b0c0d0e0f#128 := by
  decide
theorem test_loadPartial : (empty.write .input 0 [0xaa#8]).loadPartial .input 0 1 = 0xaa800000000000000000000000000000#128 := by
  decide
theorem test_storePartial :
    (empty.storeBlock .out 16 0x0102030405060708090a0b0c0d0e0f10#128 2).out.cells = [(16, 1#8), (17, 2#8)] := by decide

/-! ## The micro-operations (the examples of their rules) -/

def initState : State :=
  mid 0b000#3 0#64 0#64 0#64 .init .zero ((empty.write .key 0 (up 0 16)).write .nonce 0 (up 0xa0 8))

theorem test_init_offsets : (endOf (initStep toy initState)).work.dc = 0x0306050c0f0a09181b1e1d1417121100#128 := by decide
/-- INIT clears the registers (R105); the host still reads what the last command left, 49 (R202). -/
theorem test_init_keeps_what_the_host_reads :
    let s := endOf (initStep toy { initState with outlen := 49#64, reported := ⟨49#64, 0#64⟩ })
    s.outlen = 0#64 ∧ readReg .outlen s = 49#64 := by decide
theorem test_init_seed : (endOf (initStep toy initState)).work.seed = 0xa0a1a2a3a4a5a6a70000000000000000#128 := by decide

def seedWork : Work :=
  { keyed with
    seed := 0xa0a1a2a3a4a5a6a70000000000000000#128
    da := 0x0306050c0f0a09181b1e1d1417121100#128
    v := 0xa6a5acafaaa9b81317171f1b1f1f0fa3#128 }

theorem test_macSeed :
    (endOf (macSeedStep toy (mid 0b000#3 5#64 0#64 0#64 .macSeed seedWork empty))).work.v =
      0xa6a5acafaaa9b81317171f1b1f1f0fa3#128 := by decide
theorem test_macFull :
    (endOf (macFullStep toy (mid 0b000#3 16#64 0#64 0#64 .macFull seedWork (empty.write .ad 0 (up 0x20 16))))).work.v =
      0x8a8f94919e9ba8050b0d17151b1d2f85#128 := by decide
theorem test_macFinal :
    (endOf (macFinalStep toy
      (mid 0b000#3 5#64 0#64 0#64 .macFinal seedWork (empty.write .ad 0 (List.replicate 5 0x11#8))))).work.v =
      0xa4ad9a971990f75a444e78726c6600bb#128 := by decide
theorem test_macDone :
    (endOf (macDoneStep (mid 0b000#3 5#64 17#64 0#64 .macDone seedWork empty))).work.w =
      0xa6a5acafaaa9b81317171f1b1f1f0fa3#128 := by decide

theorem test_blkEnc :
    (endOf (blkEncStep toy (mid 0b000#3 5#64 33#64 0#64 .msg afterMac (empty.write .input 0 (up 0x40 33))))).mem.loadBlock
      .out 0 = 0xb7e9fa7ae45ba9a0bbe6fdccd76b25a9#128 := by decide
theorem test_blkEnc_w :
    (endOf (blkEncStep toy (mid 0b000#3 5#64 33#64 0#64 .msg afterMac (empty.write .input 0 (up 0x40 33))))).work.w =
      0x0d1d7d647f6fbee6dccaa8be849241b3#128 := by decide
theorem test_blkDec :
    (endOf (blkDecStep toy (mid 0b001#3 5#64 49#64 0#64 .msg afterMac
      (empty.storeBlock .input 0 0xb7e9fa7ae45ba9a0bbe6fdccd76b25a9#128 16)))).mem.loadBlock .out 0 =
      0x404142434445464748494a4b4c4d4e4f#128 := by decide
theorem test_finOfs_whole :
    (endOf (finOfsStep (mid 0b000#3 5#64 16#64 0#64 .finOfs afterMac empty))).work.dc =
      0x09121b242d363f48415a536c657e7700#128 := by decide
theorem test_finOfs_partial :
    (endOf (finOfsStep (mid 0b000#3 5#64 1#64 0#64 .finOfs afterMac empty))).work.dm =
      0x152a3f54417e6ba8bd8297fce9d6c300#128 := by decide

/-- Before the final block of the 33-byte message (95_test_vectors.md section 7.1). -/
def beforeFinal : Work :=
  { keyed with
    dm := 0x54a8fd5105f9aea2f60a5ff3a75b0c00#128
    dc := 0xfdf907f30e0af3e71a1ee014e9ed1400#128
    w := 0x4266ba8cb6930db9c1e931196148d332#128
    cs := 0x10101010101010101010101010101010#128
    idx := 3#64 }

theorem test_finEnc :
    (endOf (finEncStep toy (mid 0b000#3 5#64 33#64 0#64 .final beforeFinal
      (empty.write .input 0 (up 0x40 33))))).mem.loadBlock .out 32 = 0xa86690d016bfc0ae7dbf6bed3f9979ef#128 := by decide
theorem test_finDec :
    (endOf (finDecStep toy (mid 0b001#3 5#64 49#64 0#64 .final beforeFinal
      (empty.storeBlock .input 32 0xa86690d016bfc0ae7dbf6bed3f9979ef#128 16)))).mem.out.cells = [(32, 0x60#8)] := by decide

/-- Before the tag of the empty message (43_colm0.md R146). -/
def beforeTag : Work :=
  { keyed with
    dm := 0x070e091c1b1215383f363124232a2d00#128
    dc := 0x09121b242d363f48415a536c657e7700#128
    w := 0xa4ad9a971990f75a444e78726c6600bb#128 }

theorem test_tagGen :
    (endOf (tagGenStep toy (mid 0b000#3 5#64 0#64 0#64 .tag beforeTag empty))).mem.loadBlock .out 0 =
      0xf5b2be47c204e1313175713939fca5f0#128 := by decide

def tagged (first : Block) : State :=
  mid 0b001#3 5#64 16#64 0#64 .tagChk { keyed with t := 0xf5b2be47c204e1313175713939fca5f0#128 }
    (empty.storeBlock .input 0 first 16)

theorem test_tagChk_equal : verdict (tagChkStep (tagged 0xf5b2be47c204e1313175713939fca5f0#128)) = some .success := by decide
theorem test_tagChk_differs :
    verdict (tagChkStep (tagged 0xf4b2be47c204e1313175713939fca5f0#128)) = some .tagMismatch := by decide

def padded (pf : Block) : State := mid 0b001#3 0#64 19#64 0#64 .padChk { keyed with pf := pf } empty

theorem test_padChk_marker : paddingStatus (padded 0x50515281000000000000000000000001#128) = .badPaddingMarker := by decide
theorem test_padChk_tail : paddingStatus (padded 0x50515280000000000000000000000001#128) = .badPaddingTail := by decide
theorem test_padChk_success : verdict (padChkStep (padded 0x50515280000000000000000000000000#128)) = some .success := by decide

theorem test_halt :
    (haltWith .success (mid 0b010#3 0#64 4064#64 0#64 .tag .zero empty)).outlen = 4080#64 ∧
      (haltWith .success (mid 0b010#3 0#64 4064#64 0#64 .tag .zero empty)).tagoutlen = 32#64 := by decide
theorem test_chkLen : verdict (chkLenStep (mid 0b001#3 0#64 15#64 0#64 .check .zero empty)) = some .invalidLength := by decide

/-- Before the intermediate tag of block 127 of 128 (44_colm127.md R161): `DC` doubled for the block already. -/
def beforeItag : Work :=
  { keyed with
    dc := 0xc5084e91d41959a2e72a6cb3f63b7b80#128
    w := 0xf8f2a202b5fc115076a57b94485bdb2d#128
    idx := 127#64 }

theorem test_itagGen :
    (endOf (itagGenStep toy (mid 0b010#3 0#64 2048#64 0#64 .msg beforeItag empty))).mem.loadBlock .tagOut 0 =
      0x79b09c925125e43b62254623baa3d57f#128 := by decide
theorem test_itagChk_equal :
    (endOf (itagChkStep toy (mid 0b011#3 0#64 2064#64 16#64 .msg beforeItag
      (empty.storeBlock .tagIn 0 0x79b09c925125e43b62254623baa3d57f#128 16)))).work.tagpos = 16#64 := by decide
theorem test_itagChk_short :
    verdict (itagChkStep toy (mid 0b011#3 0#64 2064#64 15#64 .msg beforeItag
      (empty.storeBlock .tagIn 0 0x79b09c925125e43b62254623baa3d57f#128 16))) = some .intermediateTagMismatch := by decide

/-- The group of 95_test_vectors.md section 10.1. -/
def groupState : State := mid 0b100#3 5#64 64#64 0#64 .msg afterMac (empty.write .input 0 (up 0x40 48))

theorem test_b3Enc : (endOf (b3EncStep toy groupState)).mem.loadBlock .out 32 = 0xcabdf6ef9060adbad2a9c01f748bb9b6#128 := by
  decide
theorem test_b3Enc_w : (endOf (b3EncStep toy groupState)).work.w = 0xf4b535513d7e3b5bb3ea623ad289c60c#128 := by decide
theorem test_b3Dec :
    (endOf (b3DecStep toy (mid 0b101#3 5#64 80#64 0#64 .msg afterMac
      (((empty.storeBlock .input 0 0xb7e9fa7ae45ba9a0bbe6fdccd76b25a9#128 16).storeBlock .input 16
        0x76ddfffdc59d7c7546ebd8b98bd4ca4f#128 16).storeBlock .input 32
        0xcabdf6ef9060adbad2a9c01f748bb9b6#128 16)))).mem.loadBlock .out 32 = 0x606162636465666768696a6b6c6d6e6f#128 := by decide

/-! ## Witnesses: for every obligation with hypotheses, a state and operands that meet them together

Boundary values are chosen where a clause has a range. Expected values here are the hypotheses' own; nothing is
claimed of results. -/

/-- An idle state whose next turn is the host's event. -/
def hostState (e : HostEvent) : State := { State.reset with inbox := [.host e] }

/-- A busy state whose next turn is the host's event. -/
def busyHost (e : HostEvent) : State := { hostState e with busy := true, phase := .check }

theorem witness_DecodeAndEncodeAgree : decode (.uop 19#5) = .ok .halt := rfl

theorem witness_StepRuns_issued :
    (State.reset.withFetchWord 5 19).issueWord = some ⟨5, 19⟩ ∧ decodeBits 5 19 = .ok .halt := ⟨rfl, rfl⟩

theorem witness_StepRuns_controller :
    initState.issueWord = none ∧ controllerMoves initState = true ∧ initState.busy = true ∧
      issued initState = some 2#5 ∧ decode (.uop 2#5) = .ok .init := ⟨rfl, rfl, rfl, rfl, rfl⟩

theorem witness_StepRuns_start :
    hostTurn .start [] (hostState .start) ∧ decode (.cmd (hostState .start).host.cmd) = .ok .colm0Enc :=
  ⟨⟨rfl, rfl⟩, rfl⟩

/-- Three non-final blocks remain: the least that makes a group. -/
theorem witness_SequencerFollowsTheTable_group :
    groupState.issueWord = none ∧ controllerMoves groupState = true ∧ groupState.busy = true ∧
      sequencerTable groupState = some .b3Enc := by decide

/-- Two non-final blocks remain: no group. -/
theorem witness_SequencerFollowsTheTable_single :
    let s := mid 0b101#3 5#64 64#64 0#64 .msg afterMac empty
    s.issueWord = none ∧ controllerMoves s = true ∧ s.busy = true ∧ sequencerTable s = some .blkDec := by decide

theorem witness_SequencerFollowsTheTable_idle :
    State.reset.issueWord = none ∧ controllerMoves State.reset = true ∧ State.reset.busy = false := by decide

theorem witness_DoublingIsAsStated : (0 : Nat) < 15 ∧ (14 : Nat) < 15 := by decide

theorem witness_BlocksAreBigEndian :
    ∀ j, j < 16 → (empty.write .input 0 (up 0 16)).readByte .input (0 + j) = BitVec.ofNat 8 j := by decide

theorem witness_PartialLoadPads_one : (empty.write .ad 16 [0xaa#8]).readByte .ad 16 = 0xaa#8 := by decide

theorem witness_PartialLoadPads_fifteen :
    ∀ j, j < 15 → (empty.write .ad 0 (up 1 15)).readByte .ad (0 + j) = BitVec.ofNat 8 (j + 1) := by decide

theorem witness_PartialLoadPads_positions :
    ((15 : Nat) ≤ 15 ∧ (14 : Nat) < 15) ∧ ((0 : Nat) ≤ 15 ∧ (0 : Nat) < 16) ∧ ((14 : Nat) ≤ 15 ∧ (15 : Nat) < 16) := by
  decide

theorem witness_StoresWriteTheirBytes : ((1 : Nat) ≤ 1 ∧ (1 : Nat) ≤ 16) ∧ ((1 : Nat) ≤ 16 ∧ (16 : Nat) ≤ 16) := by decide

theorem witness_InstructionsLeaveInputsAlone :
    (∃ t, exec .finOfs initState = .next t) ∧ Space.key ≠ .out ∧ Space.key ≠ .tagOut := ⟨⟨_, rfl⟩, by decide, by decide⟩

theorem witness_StepKeepsMemoryCanonical : initState.mem.wf = true ∧ ∃ t, step initState = .next t :=
  ⟨by decide, _, rfl⟩

theorem witness_RegisterWrites_cmd :
    (hostState (.write .cmd 15)).busy = false ∧ hostTurn (.write .cmd 15) [] (hostState (.write .cmd 15)) :=
  ⟨rfl, rfl, rfl⟩

theorem witness_RegisterWrites_adlen :
    (hostState (.write .adlen 5)).busy = false ∧ hostTurn (.write .adlen 5) [] (hostState (.write .adlen 5)) :=
  ⟨rfl, rfl, rfl⟩

theorem witness_RegisterWrites_inlen :
    (hostState (.write .inlen 5)).busy = false ∧ hostTurn (.write .inlen 5) [] (hostState (.write .inlen 5)) :=
  ⟨rfl, rfl, rfl⟩

theorem witness_RegisterWrites_taginlen :
    (hostState (.write .taginlen 5)).busy = false ∧ hostTurn (.write .taginlen 5) [] (hostState (.write .taginlen 5)) :=
  ⟨rfl, rfl, rfl⟩

theorem witness_RegisterWrites_busy :
    (busyHost (.write .inlen 5)).busy = true ∧ hostTurn (.write .inlen 5) [] (busyHost (.write .inlen 5)) :=
  ⟨rfl, rfl, rfl⟩

/-- All 16 bytes of KEY. -/
theorem witness_HostWritesBuffers_idle :
    hostTurn (.writeBuf .key 0#64 (up 0 16)) [] (hostState (.writeBuf .key 0#64 (up 0 16))) ∧
      (hostState (.writeBuf .key 0#64 (up 0 16))).busy = false ∧
      (0#64).toNat + (up 0 16).length ≤ HostWriteSpace.key.space.hostBytes := ⟨⟨rfl, rfl⟩, rfl, by decide⟩

theorem witness_HostWritesBuffers_busy :
    hostTurn (.writeBuf .ad 0#64 [1#8]) [] (busyHost (.writeBuf .ad 0#64 [1#8])) ∧
      (busyHost (.writeBuf .ad 0#64 [1#8])).busy = true := ⟨⟨rfl, rfl⟩, rfl⟩

/-- Each of the nine registers, in an idle and in a busy machine. -/
theorem witness_HostReads_register (reg : ReadableReg) :
    hostTurn (.read reg) [] (hostState (.read reg)) ∧ hostTurn (.read reg) [] (busyHost (.read reg)) :=
  ⟨⟨rfl, rfl⟩, rfl, rfl⟩

/-- STATUS with each of the six codes. -/
theorem witness_HostReads_status (st : Status) :
    let s := { hostState (.read .status) with status := st }
    hostTurn (.read .status) [] s ∧ s.status = st := ⟨⟨rfl, rfl⟩, rfl⟩

/-- A CMD of three set bits reads with zeros above (R28). -/
theorem test_read_cmd_zero_extended :
    step { busyHost (.read .cmd) with host := ⟨0b111#3, 0#64, 0#64, 0#64⟩ } =
      .next { busyHost (.read .cmd) with host := ⟨0b111#3, 0#64, 0#64, 0#64⟩, inbox := [], readout := .value 7#64 } :=
  rfl

/-- The last byte of OUT. -/
theorem witness_HostReads_buffer :
    hostTurn (.readBuf .out 18446744073709551615#64 1) [] (hostState (.readBuf .out 18446744073709551615#64 1)) ∧
      (hostState (.readBuf .out 18446744073709551615#64 1)).busy = false ∧
      (18446744073709551615#64).toNat + 1 ≤ 2 ^ 64 := ⟨⟨rfl, rfl⟩, rfl, by decide⟩

theorem witness_HostReads_busy :
    hostTurn (.readBuf .tagOut 0#64 1) [] (busyHost (.readBuf .tagOut 0#64 1)) ∧
      (busyHost (.readBuf .tagOut 0#64 1)).busy = true := ⟨⟨rfl, rfl⟩, rfl⟩

theorem witness_ResetEvent : hostTurn .reset [] (busyHost .reset) := ⟨rfl, rfl⟩

/-- The longest encrypt command. -/
theorem witness_StartLatches_encrypt :
    let s := { hostState .start with host := ⟨0b000#3, 0#64, 18446744073709551599#64, 0#64⟩ }
    hostTurn .start [] s ∧ s.busy = false ∧ (s.host.cmd.getLsbD 0 = true ∨ s.host.inlen.toNat ≤ 2 ^ 64 - 17) :=
  ⟨⟨rfl, rfl⟩, rfl, .inr (by decide)⟩

theorem witness_StartLatches_decrypt :
    let s := { hostState .start with host := ⟨0b001#3, 0#64, 18446744073709551615#64, 0#64⟩ }
    hostTurn .start [] s ∧ s.busy = false ∧ (s.host.cmd.getLsbD 0 = true ∨ s.host.inlen.toNat ≤ 2 ^ 64 - 17) :=
  ⟨⟨rfl, rfl⟩, rfl, .inl (by decide)⟩

/-- An idle state with a length in INLEN. -/
def withInlen (n : Len) : State := { State.reset with host := ⟨0b000#3, 0#64, n, 0#64⟩ }

theorem witness_CommandWords_started :
    (withInlen 18446744073709551599#64).busy = false ∧ (withInlen 18446744073709551599#64).host.inlen.toNat ≤ 2 ^ 64 - 17 := by
  decide

theorem witness_CommandWords_refused :
    (withInlen 18446744073709551600#64).busy = false ∧ (0b010#3).getLsbD 0 = false ∧
      2 ^ 64 - 17 < (withInlen 18446744073709551600#64).host.inlen.toNat := by decide

theorem witness_StartWhileBusy : hostTurn .start [] (busyHost .start) ∧ (busyHost .start).busy = true := ⟨⟨rfl, rfl⟩, rfl⟩

theorem witness_ChkLen_short :
    let s := mid 0b001#3 0#64 15#64 0#64 .check .zero empty
    s.dec = true ∧ s.latch.inlen.toNat < 16 := by decide

theorem witness_ChkLen_enough :
    let s := mid 0b001#3 0#64 16#64 0#64 .check .zero empty
    s.dec = false ∨ 16 ≤ s.latch.inlen.toNat := by decide

theorem witness_Halt_success : initState.ports.haltArg = .success := rfl

theorem witness_Halt_failure :
    ({ initState with ports := { initState.ports with haltArg := .tagMismatch } } : State).ports.haltArg ≠ .success := by
  decide

theorem witness_OnlyHaltWritesStatus : ∃ t, exec .halt initState = .next t := ⟨_, rfl⟩

theorem witness_OnlyHaltWritesStatus_step :
    (∀ rest, ¬ hostTurn .reset rest initState) ∧ ∃ t, step initState = .next t :=
  ⟨fun _ h => by simp [hostTurn, initState, mid, State.reset] at h, _, rfl⟩

theorem witness_MacFullResult :
    let s := mid 0b000#3 16#64 0#64 0#64 .macFull seedWork empty
    adAddr s.work.aidx + 16 ≤ s.latch.adlen.toNat := by decide

/-- Consistent states of a command, by phase. -/
theorem consistent_init : Consistent initState := by constructor <;> decide

theorem witness_MacStepsComputeAdMac : Consistent initState ∧ initState.inbox = [] ∧ initState.phase = .init :=
  ⟨consistent_init, rfl, rfl⟩

/-! ### Blocks -/

/-- A periodic command at the cadence point 127, which is not the last block. -/
def atCadence (cmd : BitVec 3) (inlen taginlen : Len) (m : Memory) : State :=
  mid cmd 0#64 inlen taginlen .msg beforeItag m

/-- The memory whose TAGIN starts with the image of a Block. -/
def tagInOf (x : Block) : Memory := empty.storeBlock .tagIn 0 x 16

theorem tagInOf_holds (x : Block) : HoldsBytes (tagInOf x) .tagIn 0 x 16 := HoldsBytes_storeBlock _ _ _ _ _ (le_refl _)

/-- The memory whose first TAGIN byte is not that of the image of a Block. -/
def tagInNot (x : Block) : Memory := empty.writeByte .tagIn 0 (imageByte x 0 + 1#8)

theorem tagInNot_holds_not (x : Block) : ¬ HoldsBytes (tagInNot x) .tagIn 0 x 16 := by
  intro h
  have h0 := h 0 (by decide)
  rw [tagInNot, Memory.readByte_writeByte, if_pos ⟨rfl, rfl⟩] at h0
  have h1 : imageByte x 0 + 1#8 = imageByte x 0 + 0#8 := h0.trans (BitVec.add_zero _).symm
  exact absurd (add_left_cancel h1) (by decide)

/-- The intermediate tag of `beforeItag` under an offset, with the open cipher. -/
def openTag (dc : Block) : Block := Config.chip.bcEnc beforeItag.rke beforeItag.w ^^^ dc

theorem witness_BlkEncResult :
    let s := mid 0b000#3 5#64 17#64 0#64 .msg afterMac empty
    blockAddr s.work.idx + 16 ≤ s.spaceSize .input ∧ blockAddr s.work.idx + 16 ≤ s.spaceSize .out ∧
      (s.cadence s.work.idx = true → s.work.tagpos.toNat + 16 ≤ s.spaceSize .tagOut) := by decide

theorem witness_BlkEncResult_cadence :
    let s := atCadence 0b010#3 2033#64 0#64 empty
    blockAddr s.work.idx + 16 ≤ s.spaceSize .input ∧ blockAddr s.work.idx + 16 ≤ s.spaceSize .out ∧
      s.cadence s.work.idx = true ∧ s.work.tagpos.toNat + 16 ≤ s.spaceSize .tagOut := by decide

theorem witness_BlkDecResult :
    let s := mid 0b001#3 5#64 33#64 0#64 .msg afterMac empty
    blockAddr s.work.idx + 16 ≤ s.spaceSize .input ∧ blockAddr s.work.idx + 16 ≤ s.spaceSize .out ∧
      s.cadence s.work.idx = false := by decide

theorem witness_BlkDecResult_cadence :
    let dc := dbl (dbl beforeItag.dc)
    let s := atCadence 0b011#3 2049#64 16#64 (tagInOf (openTag dc))
    blockAddr s.work.idx + 16 ≤ s.spaceSize .input ∧ blockAddr s.work.idx + 16 ≤ s.spaceSize .out ∧
      s.cadence s.work.idx = true ∧ s.work.tagpos.toNat + 16 ≤ s.latch.taginlen.toNat ∧
      HoldsBytes s.mem .tagIn s.work.tagpos.toNat (Config.chip.bcEnc s.work.rke s.work.w ^^^ dc) 16 :=
  ⟨by decide, by decide, by decide, by decide, tagInOf_holds _⟩

theorem witness_IntermediateTagMismatch_short :
    let s := atCadence 0b011#3 2049#64 15#64 empty
    s.cadence s.work.idx = true ∧ s.latch.taginlen.toNat < s.work.tagpos.toNat + 16 := by decide

theorem witness_IntermediateTagMismatch_blk :
    let dc := dbl (dbl beforeItag.dc)
    let s := atCadence 0b011#3 2049#64 16#64 (tagInNot (openTag dc))
    s.cadence s.work.idx = true ∧
      ¬ HoldsBytes s.mem .tagIn s.work.tagpos.toNat (Config.chip.bcEnc s.work.rke s.work.w ^^^ dc) 16 :=
  ⟨by decide, tagInNot_holds_not _⟩

theorem witness_IntermediateTagMismatch_fin :
    let dc := dbl beforeItag.dc
    let s := atCadence 0b011#3 2048#64 16#64 (tagInNot (openTag dc))
    s.cadence s.work.idx = true ∧
      ¬ HoldsBytes s.mem .tagIn s.work.tagpos.toNat (Config.chip.bcEnc s.work.rke s.work.w ^^^ dc) 16 :=
  ⟨by decide, tagInNot_holds_not _⟩

/-- A whole final block. -/
theorem witness_FinEncResult_whole :
    let s := mid 0b000#3 5#64 16#64 0#64 .final afterMac empty
    16 * s.nnf + (if s.rlen = 0 then 16 else s.rlen) ≤ s.spaceSize .input ∧ 16 * s.nnf + 16 ≤ s.spaceSize .out ∧
      s.rlen = 0 ∧ s.cadence s.work.idx = false := by decide

/-- A final block of one byte. -/
theorem witness_FinEncResult_partial :
    let s := mid 0b000#3 5#64 33#64 0#64 .final beforeFinal empty
    16 * s.nnf + (if s.rlen = 0 then 16 else s.rlen) ≤ s.spaceSize .input ∧ 16 * s.nnf + 16 ≤ s.spaceSize .out ∧
      s.rlen = 1 ∧ s.cadence s.work.idx = false := by decide

/-- The final block is block 127. -/
theorem witness_FinEncResult_cadence :
    let s := atCadence 0b010#3 2032#64 0#64 empty
    16 * s.nnf + (if s.rlen = 0 then 16 else s.rlen) ≤ s.spaceSize .input ∧ 16 * s.nnf + 16 ≤ s.spaceSize .out ∧
      s.cadence s.work.idx = true ∧ s.work.tagpos.toNat + 16 ≤ s.spaceSize .tagOut := by decide

theorem witness_FinDecResult_whole :
    let s := mid 0b001#3 5#64 32#64 0#64 .final afterMac empty
    16 * s.nnf + 16 ≤ s.spaceSize .input ∧ 16 * s.nnf + (if s.rlen = 0 then 16 else s.rlen) ≤ s.spaceSize .out ∧
      s.rlen = 0 ∧ s.cadence s.work.idx = false := by decide

theorem witness_FinDecResult_partial :
    let s := mid 0b001#3 5#64 49#64 0#64 .final beforeFinal empty
    16 * s.nnf + 16 ≤ s.spaceSize .input ∧ 16 * s.nnf + (if s.rlen = 0 then 16 else s.rlen) ≤ s.spaceSize .out ∧
      s.rlen = 1 ∧ s.cadence s.work.idx = false := by decide

theorem witness_FinDecResult_cadence :
    let dc := dbl beforeItag.dc
    let s := atCadence 0b011#3 2048#64 16#64 (tagInOf (openTag dc))
    16 * s.nnf + 16 ≤ s.spaceSize .input ∧ 16 * s.nnf + (if s.rlen = 0 then 16 else s.rlen) ≤ s.spaceSize .out ∧
      s.cadence s.work.idx = true ∧ s.work.tagpos.toNat + 16 ≤ s.latch.taginlen.toNat ∧
      HoldsBytes s.mem .tagIn s.work.tagpos.toNat (Config.chip.bcEnc s.work.rke s.work.w ^^^ dc) 16 :=
  ⟨by decide, by decide, by decide, by decide, tagInOf_holds _⟩

theorem witness_ItagGenResult :
    let s := atCadence 0b010#3 2032#64 0#64 empty
    s.work.tagpos.toNat + 16 ≤ s.spaceSize .tagOut := by decide

theorem witness_ItagChkResult :
    let dc := dbl beforeItag.dc
    let s := atCadence 0b011#3 2048#64 16#64 (tagInOf (openTag dc))
    s.work.tagpos.toNat + 16 ≤ s.latch.taginlen.toNat ∧
      HoldsBytes s.mem .tagIn s.work.tagpos.toNat (Config.chip.bcEnc s.work.rke s.work.w ^^^ dc) 16 :=
  ⟨by decide, tagInOf_holds _⟩

theorem witness_TagGenResult_encrypt :
    let s := mid 0b000#3 0#64 18446744073709551599#64 0#64 .tag beforeTag empty
    s.dec = false ∧ s.latch.inlen.toNat ≤ 2 ^ 64 - 17 := by decide

theorem witness_TagGenResult_decrypt : (tagged 0#128).dec = true := rfl

theorem witness_TagChkResult_whole :
    let s := tagged 0xf5b2be47c204e1313175713939fca5f0#128
    s.dec = true ∧ 16 ≤ s.latch.inlen.toNat ∧ HoldsBytes s.mem .input (16 * s.nblk) s.work.t s.tlen ∧ s.rlen = 0 :=
  ⟨by decide, by decide, HoldsBytes_storeBlock _ _ _ _ _ (le_refl _), by decide⟩

/-- One tag byte, `44`, after one block (`R = 1`). -/
theorem witness_TagChkResult_partial :
    let s := mid 0b001#3 0#64 17#64 0#64 .tagChk { keyed with t := 0x44283ab6c182824a106433336c3089b0#128 }
      (empty.write .input 16 [0x44#8])
    s.dec = true ∧ 16 ≤ s.latch.inlen.toNat ∧ HoldsBytes s.mem .input (16 * s.nblk) s.work.t s.tlen ∧ 0 < s.rlen :=
  ⟨by decide, by decide, by unfold HoldsBytes; decide, by decide⟩

theorem witness_TagChkResult_differs :
    let s := tagged 0xf4b2be47c204e1313175713939fca5f0#128
    s.dec = true ∧ 16 ≤ s.latch.inlen.toNat ∧ ¬ HoldsBytes s.mem .input (16 * s.nblk) s.work.t s.tlen :=
  ⟨by decide, by decide, by unfold HoldsBytes; decide⟩

theorem witness_PadChkResult_success :
    let s := padded 0x50515280000000000000000000000000#128
    imageByte s.work.pf s.rlen = 0x80#8 ∧ ∀ j, s.rlen < j → j ≤ 15 → imageByte s.work.pf j = 0x00#8 := by
  have h : ∀ j, j ≤ 15 → 3 < j → imageByte 0x50515280000000000000000000000000#128 j = 0x00#8 := by decide
  exact ⟨by decide, fun j h1 h2 => h j h2 h1⟩

theorem witness_PadChkResult_marker :
    imageByte (padded 0x50515281000000000000000000000001#128).work.pf (padded 0#128).rlen ≠ 0x80#8 := by decide

theorem witness_PadChkResult_tail :
    let s := padded 0x50515280000000000000000000000001#128
    imageByte s.work.pf s.rlen = 0x80#8 ∧ s.rlen < 15 ∧ imageByte s.work.pf 15 ≠ 0x00#8 := by decide

theorem witness_BlockRoundTrip :
    let key := 0x000102030405060708090a0b0c0d0e0f#128
    keyed.rke = toy.ksEnc key ∧ keyed.rkd = toy.ksDec (toy.ksEnc key) := ⟨rfl, rfl⟩

/-! ### Groups -/

/-- A group whose last lane is block 127, and the last group of its message. -/
def cadenceGroup (cmd : BitVec 3) (inlen taginlen : Len) (m : Memory) : State :=
  mid cmd 0#64 inlen taginlen .msg { beforeItag with idx := 125#64 } m

theorem witness_B3EncResult :
    groupState.dec = false ∧ groupState.latch.inlen.toNat ≤ 2 ^ 64 - 17 ∧ 1 ≤ groupState.work.idx.toNat ∧
      groupState.work.idx.toNat + 2 ≤ groupState.nnf ∧ groupState.laneTagpos = groupState.work.tagpos ∧
      groupState.work.tagpos.toNat ≤ groupState.spaceSize .tagOut := by decide

theorem witness_B3EncResult_cadence :
    let s := cadenceGroup 0b110#3 2048#64 0#64 empty
    s.dec = false ∧ s.latch.inlen.toNat ≤ 2 ^ 64 - 17 ∧ 1 ≤ s.work.idx.toNat ∧ s.work.idx.toNat + 2 ≤ s.nnf ∧
      s.cadence (s.lane 2) = true ∧ s.laneTagpos ≠ s.work.tagpos ∧
      s.work.tagpos.toNat + 16 ≤ s.spaceSize .tagOut := by decide

theorem witness_B3DecResult :
    let s := mid 0b101#3 5#64 80#64 0#64 .msg afterMac empty
    s.dec = true ∧ 16 ≤ s.latch.inlen.toNat ∧ 1 ≤ s.work.idx.toNat ∧ s.work.idx.toNat + 2 ≤ s.nnf ∧
      ∀ j, j < 3 → s.cadence (s.lane j) = false := by decide

/-- The tag of the last lane, which does not depend on TAGIN. -/
def lastLaneTag : Block :=
  let s := cadenceGroup 0b111#3 2064#64 16#64 empty
  s.laneTag Config.chip (s.laneChainDec Config.chip) 2

/-- The lanes of a group read IN, never TAGIN. -/
theorem laneTag_congr (c : Setup) (m : Memory) (n : Nat)
    (h : ∀ a, m.loadBlock .input a = empty.loadBlock .input a) :
    let s := cadenceGroup 0b111#3 2064#64 16#64 m
    let s' := cadenceGroup 0b111#3 2064#64 16#64 empty
    s.laneTag c (s.laneChainDec c) n = s'.laneTag c (s'.laneChainDec c) n := by
  intro s s'
  have ho : ∀ k, s.laneOffset k = s'.laneOffset k := fun k => by
    induction k with
    | zero => rfl
    | succ k ih => simp only [State.laneOffset, ih]; rfl
  have hp : ∀ k, s.lanePassDec c k = s'.lanePassDec c k := fun k => by
    show c.bcDec _ (m.loadBlock .input _ ^^^ _) = c.bcDec _ (empty.loadBlock .input _ ^^^ _)
    rw [h, ho]; rfl
  have hc : ∀ k, s.laneChainDec c k = s'.laneChainDec c k := fun k => by
    induction k with
    | zero => rfl
    | succ k ih => simp only [State.laneChainDec, ih, hp]
  simp only [State.laneTag, hc, ho]; rfl

theorem tagInOf_input (x : Block) (a : Nat) : (tagInOf x).loadBlock .input a = empty.loadBlock .input a := by
  exact congrArg blockOfBytes <| Memory.read_congr fun b _ _ =>
    SameOutside_storeBlock empty .tagIn 0 16 x (le_refl _) .input b (.inl (by decide))

theorem tagInNot_input (x : Block) (a : Nat) : (tagInNot x).loadBlock .input a = empty.loadBlock .input a := by
  exact congrArg blockOfBytes <| Memory.read_congr fun b _ _ => by
    rw [tagInNot, Memory.readByte_writeByte, if_neg (by simp)]

theorem witness_B3DecResult_cadence :
    let s := cadenceGroup 0b111#3 2064#64 16#64 (tagInOf lastLaneTag)
    s.dec = true ∧ 16 ≤ s.latch.inlen.toNat ∧ 1 ≤ s.work.idx.toNat ∧ s.work.idx.toNat + 2 ≤ s.nnf ∧
      s.cadence (s.lane 0) = false ∧ s.cadence (s.lane 1) = false ∧ s.cadence (s.lane 2) = true ∧
      s.work.tagpos.toNat + 16 ≤ s.latch.taginlen.toNat ∧
      HoldsBytes s.mem .tagIn s.work.tagpos.toNat (s.laneTag Config.chip (s.laneChainDec Config.chip) 2) 16 := by
  refine ⟨rfl, by decide, by decide, by decide, by decide, by decide, by decide, by decide, ?_⟩
  rw [laneTag_congr Config.chip _ 2 (tagInOf_input _)]
  exact tagInOf_holds _

theorem witness_B3DecRaises :
    let s := cadenceGroup 0b111#3 2064#64 16#64 (tagInNot lastLaneTag)
    s.dec = true ∧ 16 ≤ s.latch.inlen.toNat ∧ 1 ≤ s.work.idx.toNat ∧ s.work.idx.toNat + 2 ≤ s.nnf ∧
      s.cadence (s.lane 2) = true ∧
      ¬ HoldsBytes s.mem .tagIn s.work.tagpos.toNat (s.laneTag Config.chip (s.laneChainDec Config.chip) 2) 16 := by
  refine ⟨rfl, by decide, by decide, by decide, by decide, ?_⟩
  rw [laneTag_congr Config.chip _ 2 (tagInNot_input _)]
  exact tagInNot_holds_not _

/-- A stream one byte too short for the intermediate tag. -/
theorem witness_B3DecRaises_short :
    let s := cadenceGroup 0b111#3 2064#64 15#64 empty
    s.dec = true ∧ 16 ≤ s.latch.inlen.toNat ∧ 1 ≤ s.work.idx.toNat ∧ s.work.idx.toNat + 2 ≤ s.nnf ∧
      s.cadence (s.lane 2) = true ∧ s.latch.taginlen.toNat < s.work.tagpos.toNat + 16 := by decide

theorem witness_GroupStepIsThreeBlockSteps_encrypt :
    let s := cadenceGroup 0b110#3 2048#64 0#64 empty
    1 ≤ s.work.idx.toNat ∧ s.work.idx.toNat + 2 ≤ s.nnf ∧ s.dec = false ∧ s.latch.inlen.toNat ≤ 2 ^ 64 - 17 ∧
      s.work.tagpos.toNat = s.tagBytesBefore s.work.idx.toNat := by decide

theorem witness_GroupStepIsThreeBlockSteps_decrypt :
    let s := cadenceGroup 0b111#3 2064#64 0#64 empty
    1 ≤ s.work.idx.toNat ∧ s.work.idx.toNat + 2 ≤ s.nnf ∧ s.dec = true ∧ 16 ≤ s.latch.inlen.toNat := by decide

/-! ### Whole commands -/

/-- A message-phase state whose offsets are those of block 1. -/
def msgState : State :=
  mid 0b000#3 5#64 17#64 0#64 .msg { afterMac with l := 0x0102030405060708090a0b0c0d0e0f00#128 } empty

theorem consistent_msg : Consistent msgState := by constructor <;> decide

theorem witness_StepKeepsConsistent : Consistent initState ∧ ∃ t, step initState = .next t := ⟨consistent_init, _, rfl⟩

theorem witness_ControllerNeverStops : Consistent msgState ∧ controllerMoves msgState = true := ⟨consistent_msg, rfl⟩

theorem witness_StepKeepsOffsetsInClosedForm :
    Consistent msgState ∧ OffsetsInClosedForm msgState ∧ ∃ t, step msgState = .next t :=
  ⟨consistent_msg, fun _ => by decide, _, rfl⟩

theorem witness_StepKeepsChecksumOfPlaintext :
    Consistent msgState ∧ ChecksumOfPlaintext msgState ∧ ∃ t, step msgState = .next t :=
  ⟨consistent_msg, fun _ _ => rfl, _, rfl⟩

/-- A command just started. -/
def started (cmd : BitVec 3) (inlen : Len) : State := mid cmd 5#64 inlen 0#64 .check .zero empty

theorem started_encrypt : JustStarted (started 0b000#3 33#64) := ⟨by constructor <;> decide, rfl, rfl, rfl⟩

theorem started_decrypt : JustStarted (started 0b001#3 15#64) := ⟨by constructor <;> decide, rfl, rfl, rfl⟩

theorem started_wide : JustStarted (started 0b110#3 80#64) := ⟨by constructor <;> decide, rfl, rfl, rfl⟩

theorem witness_CommandsHaltWithinTheBound : JustStarted (started 0b000#3 33#64) ∧ (started 0b000#3 33#64).dec = false :=
  ⟨started_encrypt, rfl⟩

theorem witness_EncryptCommands : JustStarted (started 0b000#3 33#64) ∧ (started 0b000#3 33#64).dec = false :=
  ⟨started_encrypt, rfl⟩

/-- The empty message, one byte, one whole block, and a periodic message in groups that passes block 127. -/
theorem witness_EncryptCommands_lengths :
    ∀ p ∈ [(0b000#3, 0#64), (0b000#3, 1#64), (0b000#3, 16#64), (0b110#3, 2048#64)],
      JustStarted (started p.1 p.2) ∧ (started p.1 p.2).dec = false := by
  simp only [List.forall_mem_cons, List.not_mem_nil, false_implies, implies_true, and_true]
  refine ⟨?_, ?_, ?_, ?_⟩ <;> exact ⟨⟨by constructor <;> decide, rfl, rfl, rfl⟩, rfl⟩

theorem witness_DecryptCommands : JustStarted (started 0b001#3 15#64) ∧ (started 0b001#3 15#64).dec = true :=
  ⟨started_decrypt, rfl⟩

/-- Streams of 16, 17, 32 and 33 bytes (`R` is 0, 1, 0, 1), and a periodic one in groups that passes block 127. -/
theorem witness_DecryptCommands_lengths :
    ∀ p ∈ [(0b001#3, 16#64), (0b001#3, 17#64), (0b001#3, 32#64), (0b001#3, 33#64), (0b111#3, 2064#64)],
      JustStarted (started p.1 p.2) ∧ (started p.1 p.2).dec = true := by
  simp only [List.forall_mem_cons, List.not_mem_nil, false_implies, implies_true, and_true]
  refine ⟨?_, ?_, ?_, ?_, ?_⟩ <;> exact ⟨⟨by constructor <;> decide, rfl, rfl, rfl⟩, rfl⟩

theorem witness_WideCommands : JustStarted (started 0b110#3 80#64) ∧ (started 0b110#3 80#64).wide = true :=
  ⟨started_wide, rfl⟩

theorem witness_EarlierCommandsLeaveNothing :
    JustStarted (started 0b001#3 15#64) ∧
      AgreeButWork (started 0b001#3 15#64) { started 0b001#3 15#64 with work := afterMac } ∧
      ∃ t, steps 1 (started 0b001#3 15#64) = .next t ∧ t.done = true :=
  ⟨started_decrypt, rfl, _, rfl, rfl⟩

theorem witness_ChangedFinalTagIsRejected :
    let e := colmEnc toy false (up 0 16) (up 0xa0 8) [] []
    (List.replicate 16 0#8).length = (e.1.drop 0).length ∧ List.replicate 16 0#8 ≠ e.1.drop 0 := by decide

end Sys2Proof.Tests
end

section
/-! PROOFS of the family 10_state.md. A micro-operation but INIT leaves the control fields of the state alone until it
halts: that is said once of every statement and every micro-operation (`Flow.All (SameControl s)`), and what the host
sees of a result (10_state.md R28) follows. -/

namespace Sys2Proof.Machine

/-! ## A property of the state in which a flow goes on or halts -/

/-- The state in which the flow goes on, or in which it meets HALT, has the property; a fault leaves no state. -/
def Flow.All (P : State → Prop) : Flow → Prop
  | .go t => P t
  | .halt _ t => P t
  | .fault _ => True

section All

variable {P Q : State → Prop} {f : Flow}

@[simp] theorem Flow.all_go (t : State) : (Flow.go t).All P ↔ P t := Iff.rfl

@[simp] theorem Flow.all_halt (st : Status) (t : State) : (Flow.halt st t).All P ↔ P t := Iff.rfl

@[simp] theorem Flow.all_fault (r : Fault) : (Flow.fault r).All P ↔ True := Iff.rfl

theorem Flow.All.of_eq_go (h : f.All P) {t : State} (hf : f = .go t) : P t := by
  subst hf; exact h

theorem Flow.All.mono (h : f.All P) (hPQ : ∀ t, P t → Q t) : f.All Q := by
  cases f with
  | go t => exact hPQ t h
  | halt st t => exact hPQ t h
  | fault r => trivial

theorem Flow.All.andThen {k : State → Flow} (h : f.All P) (hk : ∀ t, P t → (k t).All P) : (f.andThen k).All P := by
  cases f with
  | go t => exact hk t h
  | halt st t => exact h
  | fault r => trivial

theorem inSpace_all {s : State} {sp : Space} {a n : Nat} (h : f.All P) : (inSpace s sp a n f).All P := by
  unfold inSpace
  split_ifs
  · exact h
  · trivial

theorem loadBlock_all {s : State} {sp : Space} {a : Nat} {k : Block → Flow} (h : ∀ x, (k x).All P) :
    (loadBlock s sp a k).All P := inSpace_all (h _)

theorem loadPartial_all {s : State} {sp : Space} {a n : Nat} {k : Block → Flow} (h : ∀ x, (k x).All P) :
    (loadPartial s sp a n k).All P := inSpace_all (h _)

theorem readBytes_all {s : State} {sp : Space} {a n : Nat} {k : List Byte → Flow} (h : ∀ bs, (k bs).All P) :
    (readBytes s sp a n k).All P := inSpace_all (h _)

theorem loadGroup_all {s : State} {k : Block × Block × Block → Flow} (h : ∀ x, (k x).All P) :
    (loadGroup s k).All P :=
  loadBlock_all fun _ => loadBlock_all fun _ => loadBlock_all fun _ => h _

theorem loadFinal_all {s : State} {k : Block → Flow} (h : ∀ x, (k x).All P) : (loadFinal s k).All P := by
  unfold loadFinal
  split_ifs
  · exact loadBlock_all h
  · exact loadPartial_all h

end All

/-! ## The control fields under each statement -/

theorem SameControl.refl (s : State) : SameControl s s := by
  constructor <;> rfl

section Control

variable {s u : State}

/-- The working registers, the memory and the phase are all that may change. -/
theorem SameControl.update (h : SameControl s u) (work : Work) (mem : Memory) (phase : Phase) :
    SameControl s { u with work := work, mem := mem, phase := phase } where
  host := h.host
  latch := h.latch
  busy := h.busy
  done := h.done
  status := h.status
  outlen := h.outlen
  tagoutlen := h.tagoutlen
  reported := h.reported
  ports := h.ports
  inbox := h.inbox
  issueWord := h.issueWord
  readout := h.readout
  fresh := h.fresh

theorem goTo_sameControl (h : SameControl s u) (p : Phase) : (goTo p u).All (SameControl s) := h.update _ _ _

theorem storePartial_sameControl (h : SameControl s u) (sp : Space) (a : Nat) (x : Block) (n : Nat) :
    (storePartial u sp a x n).All (SameControl s) := inSpace_all (h.update _ _ _)

theorem storeBlock_sameControl (h : SameControl s u) (sp : Space) (a : Nat) (x : Block) :
    (storeBlock u sp a x).All (SameControl s) := storePartial_sameControl h sp a x 16

theorem storeGroup_sameControl (h : SameControl s u) (x : Block × Block × Block) :
    (storeGroup x u).All (SameControl s) :=
  (storeBlock_sameControl h _ _ _).andThen fun _ h1 =>
    (storeBlock_sameControl h1 _ _ _).andThen fun _ h2 => storeBlock_sameControl h2 _ _ _

theorem endFinal_sameControl (h : SameControl s u) : (endFinal u).All (SameControl s) :=
  goTo_sameControl (h.update _ _ _) _

variable (c : Setup)

theorem itagGenStep_sameControl (h : SameControl s u) : (itagGenStep c u).All (SameControl s) :=
  (storeBlock_sameControl (h.update _ _ _) _ _ _).andThen fun _ h1 => h1.update _ _ _

theorem itagCompare_sameControl (h : SameControl s u) (dc : Block) : (itagCompare c dc u).All (SameControl s) := by
  obtain ⟨heq, -, -⟩ | heq := itagCompare_cases c dc u
  · rw [heq]
    exact h.update _ _ _
  · rw [heq]
    exact h

theorem itagChkStep_sameControl (h : SameControl s u) : (itagChkStep c u).All (SameControl s) :=
  itagCompare_sameControl c (h.update _ _ _) _

theorem cadenceGen_sameControl (h : SameControl s u) (i : Len) : (cadenceGen c i u).All (SameControl s) := by
  unfold cadenceGen
  split_ifs
  · exact itagGenStep_sameControl c h
  · exact h

theorem cadenceChk_sameControl (h : SameControl s u) (i : Len) : (cadenceChk c i u).All (SameControl s) := by
  unfold cadenceChk
  split_ifs
  · exact itagChkStep_sameControl c h
  · exact h

theorem encLane_sameControl (h : SameControl s u) (i : Len) (x : Block) {k : Block → Block → State → Flow}
    (hk : ∀ oc y t, SameControl s t → (k oc y t).All (SameControl s)) : (encLane c i x u k).All (SameControl s) :=
  (cadenceGen_sameControl c (h.update _ _ _) i).andThen fun _ h1 => hk _ _ _ (h1.update _ _ _)

theorem decLane_sameControl (h : SameControl s u) (i : Len) (oc x : Block) {k : Block → State → Flow}
    (hk : ∀ y t, SameControl s t → (k y t).All (SameControl s)) : (decLane c i oc x u k).All (SameControl s) := by
  refine Flow.All.andThen ?_ fun t ht => hk _ _ (ht.update _ _ _)
  split_ifs
  · exact itagCompare_sameControl c h oc
  · exact h

end Control

/-! ## The control fields under each micro-operation; INIT alone writes two of them (40_gf_offset.md R105) -/

section Step

variable (c : Setup) (s : State)

theorem chkLenStep_sameControl : (chkLenStep s).All (SameControl s) := by
  unfold chkLenStep
  split_ifs
  · exact SameControl.refl s
  · exact goTo_sameControl (.refl s) _

theorem macSeedStep_sameControl : (macSeedStep c s).All (SameControl s) := (SameControl.refl s).update _ _ _

theorem macFullStep_sameControl : (macFullStep c s).All (SameControl s) :=
  loadBlock_all fun _ => (SameControl.refl s).update _ _ _

theorem macFinalStep_sameControl : (macFinalStep c s).All (SameControl s) :=
  loadPartial_all fun _ => goTo_sameControl ((SameControl.refl s).update _ _ _) _

theorem macDoneStep_sameControl : (macDoneStep s).All (SameControl s) :=
  goTo_sameControl ((SameControl.refl s).update _ _ _) _

theorem blkEncStep_sameControl : (blkEncStep c s).All (SameControl s) :=
  (cadenceGen_sameControl c ((SameControl.refl s).update _ _ _) _).andThen fun _ h1 =>
    loadBlock_all fun _ =>
      (storeBlock_sameControl (h1.update _ _ _) _ _ _).andThen fun _ h2 => h2.update _ _ _

theorem blkDecStep_sameControl : (blkDecStep c s).All (SameControl s) :=
  (cadenceChk_sameControl c ((SameControl.refl s).update _ _ _) _).andThen fun _ h1 =>
    loadBlock_all fun _ =>
      (storeBlock_sameControl (h1.update _ _ _) _ _ _).andThen fun _ h2 => h2.update _ _ _

theorem b3EncStep_sameControl : (b3EncStep c s).All (SameControl s) := by
  unfold b3EncStep
  extract_lets om0 om1 om2 s0
  refine loadGroup_all fun p => ?_
  refine encLane_sameControl c ((SameControl.refl s).update _ _ _) _ _ fun _ _ s1 h1 => ?_
  refine encLane_sameControl c h1 _ _ fun _ _ s2 h2 => ?_
  refine encLane_sameControl c h2 _ _ fun _ _ s3 h3 => ?_
  exact (storeGroup_sameControl h3 _).andThen fun _ h4 => h4.update _ _ _

theorem b3DecStep_sameControl : (b3DecStep c s).All (SameControl s) := by
  unfold b3DecStep
  extract_lets om0 om1 om2 oc0 oc1 oc2 s0
  refine loadGroup_all fun ct => ?_
  refine decLane_sameControl c ((SameControl.refl s).update _ _ _) _ _ _ fun _ s1 h1 => ?_
  refine decLane_sameControl c h1 _ _ _ fun _ s2 h2 => ?_
  refine decLane_sameControl c h2 _ _ _ fun _ s3 h3 => ?_
  exact (storeGroup_sameControl h3 _).andThen fun _ h4 => h4.update _ _ _

theorem finOfsStep_sameControl : (finOfsStep s).All (SameControl s) := by
  refine goTo_sameControl ?_ _
  split_ifs
  · exact (SameControl.refl s).update _ _ _
  · exact (SameControl.refl s).update _ _ _

theorem finEncStep_sameControl : (finEncStep c s).All (SameControl s) :=
  (cadenceGen_sameControl c (.refl s) _).andThen fun _ h1 =>
    loadFinal_all fun _ =>
      (storeBlock_sameControl (h1.update _ _ _) _ _ _).andThen fun _ h2 => endFinal_sameControl (h2.update _ _ _)

theorem finDecStep_sameControl : (finDecStep c s).All (SameControl s) :=
  (cadenceChk_sameControl c (.refl s) _).andThen fun _ h1 =>
    loadBlock_all fun _ =>
      (storePartial_sameControl (h1.update _ _ _) _ _ _ _).andThen fun _ h2 => endFinal_sameControl h2

theorem tagGenStep_sameControl : (tagGenStep c s).All (SameControl s) := by
  unfold tagGenStep
  dsimp only
  split_ifs
  · exact goTo_sameControl ((SameControl.refl s).update _ _ _) _
  · exact (storePartial_sameControl ((SameControl.refl s).update _ _ _) _ _ _ _).andThen fun _ h1 => h1

theorem tagChkStep_sameControl : (tagChkStep s).All (SameControl s) := by
  refine readBytes_all fun received => ?_
  split_ifs
  · exact goTo_sameControl (.refl s) _
  · exact SameControl.refl s
  · exact SameControl.refl s

theorem padChkStep_sameControl : (padChkStep s).All (SameControl s) := SameControl.refl s

end Step

/-! ## What the host sees of a result (10_state.md R28) -/

/-- What the host sees of the last result is still the same; `DONE` may be cleared. -/
def KeepsResult (s t : State) : Prop :=
  t.status = s.status ∧ t.reported = s.reported ∧ (t.done = true → s.done = true)

/-- The command is over and the host sees its result lengths. -/
def ShowsResult (t : State) : Prop :=
  t.busy = false ∧ t.done = true ∧ t.phase = .idle ∧ t.reported = ⟨t.outlen, t.tagoutlen⟩

/-- A next state, if there is one, keeps the last result or shows a new one. -/
def KeepsOrShows (s : State) (o : Host.Outcome State Fault Refusal) : Prop :=
  ∀ t, o = .next t → KeepsResult s t ∨ ShowsResult t

theorem KeepsResult.refl (s : State) : KeepsResult s s := ⟨rfl, rfl, id⟩

theorem SameControl.keepsResult {s t : State} (h : SameControl s t) : KeepsResult s t :=
  ⟨h.status, h.reported, fun hd => h.done ▸ hd⟩

theorem haltWith_showsResult (st : Status) (s : State) : ShowsResult (haltWith st s) :=
  have h := haltWith_halted st s
  ⟨h.busy, h.done, h.phase, by rw [h.reported, h.outlen, h.tagoutlen]⟩

theorem keepsOrShows_next {s t : State} (h : KeepsResult s t) : KeepsOrShows s (.next t) := by
  rintro _ ⟨rfl⟩
  exact .inl h

theorem keepsOrShows_refused (s : State) (r : Refusal) : KeepsOrShows s (.refused r) := fun _ h => nomatch h

/-- A micro-operation that keeps the result up to its end keeps it, or shows a new one if it ends in HALT. -/
theorem Flow.All.keepsOrShows {s : State} {f : Flow} (h : f.All (KeepsResult s)) : KeepsOrShows s f.finish := by
  intro t ht
  obtain hgo | ⟨st, u, -, rfl⟩ := Flow.finish_eq_next.mp ht
  · exact .inl (h.of_eq_go hgo)
  · exact .inr (haltWith_showsResult st u)

theorem keepsOrShows_of_sameControl {s : State} {f : Flow} (h : f.All (SameControl s)) : KeepsOrShows s f.finish :=
  (h.mono fun _ => SameControl.keepsResult).keepsOrShows

theorem launch_keepsOrShows (w : BitVec 3) (s : State) : KeepsOrShows s (launch w s) := by
  intro t ht
  obtain ⟨-, rfl⟩ | ⟨-, -, rfl⟩ := launch_eq_next.mp ht
  · exact .inl (.refl _)
  · exact .inl ⟨rfl, rfl, fun hd => nomatch hd⟩

theorem initStep_keepsResult (c : Setup) (s : State) : (initStep c s).All (KeepsResult s) := ⟨rfl, rfl, id⟩

theorem runGf_keepsOrShows (f : Block → Block) (s : State) : KeepsOrShows s (runGf f s) :=
  keepsOrShows_next ⟨rfl, rfl, id⟩

theorem runRho_keepsOrShows (f : Block → Block → Block × Block) (s : State) : KeepsOrShows s (runRho f s) :=
  keepsOrShows_next ⟨rfl, rfl, id⟩

theorem exec_keepsOrShows (i : Instr) (s : State) : KeepsOrShows s (exec i s) := by
  cases i with
  | colm0Enc | colm0Dec | colm127Enc | colm127Dec | colm0Enc3 | colm0Dec3 | colm127Enc3 | colm127Dec3 =>
    exact launch_keepsOrShows _ s
  | gfDbl | gfTpl | gfSep => exact runGf_keepsOrShows _ s
  | rhoFwd | rhoInv => exact runRho_keepsOrShows _ s
  | chkLen => exact keepsOrShows_of_sameControl (chkLenStep_sameControl s)
  | init => exact (initStep_keepsResult _ s).keepsOrShows
  | macSeed => exact keepsOrShows_of_sameControl (macSeedStep_sameControl _ s)
  | macFull => exact keepsOrShows_of_sameControl (macFullStep_sameControl _ s)
  | macFinal => exact keepsOrShows_of_sameControl (macFinalStep_sameControl _ s)
  | macDone => exact keepsOrShows_of_sameControl (macDoneStep_sameControl s)
  | blkEnc => exact keepsOrShows_of_sameControl (blkEncStep_sameControl _ s)
  | blkDec => exact keepsOrShows_of_sameControl (blkDecStep_sameControl _ s)
  | b3Enc => exact keepsOrShows_of_sameControl (b3EncStep_sameControl _ s)
  | b3Dec => exact keepsOrShows_of_sameControl (b3DecStep_sameControl _ s)
  | finOfs => exact keepsOrShows_of_sameControl (finOfsStep_sameControl s)
  | finEnc => exact keepsOrShows_of_sameControl (finEncStep_sameControl _ s)
  | finDec => exact keepsOrShows_of_sameControl (finDecStep_sameControl _ s)
  | itagGen => exact keepsOrShows_of_sameControl (itagGenStep_sameControl _ (.refl s))
  | itagChk => exact keepsOrShows_of_sameControl (itagChkStep_sameControl _ (.refl s))
  | tagGen => exact keepsOrShows_of_sameControl (tagGenStep_sameControl _ s)
  | tagChk => exact keepsOrShows_of_sameControl (tagChkStep_sameControl s)
  | padChk => exact keepsOrShows_of_sameControl (padChkStep_sameControl s)
  | halt => exact keepsOrShows_of_sameControl (f := .halt s.ports.haltArg s) (SameControl.refl s)

/-! ## What the host sees of a result, under a step -/

theorem runDecoded_keepsOrShows (d : Except DecodeError Instr) (s : State) : KeepsOrShows s (runDecoded d s) := by
  cases d with
  | ok i => exact exec_keepsOrShows i s
  | error e => exact keepsOrShows_refused s _

theorem hostBuffer_keepsOrShows {s t : State} (sp : Space) (a n : Nat) (h : KeepsResult s t) :
    KeepsOrShows s (hostBuffer s sp a n t) := by
  intro u hu
  obtain ⟨-, -, rfl⟩ := hostBuffer_eq_next.mp hu
  exact .inl h

theorem hostAct_keepsOrShows {e : HostEvent} (he : e ≠ .reset) (s : State) : KeepsOrShows s (hostAct e s) := by
  cases e with
  | write reg v =>
    refine keepsOrShows_next ?_
    split_ifs
    · exact .refl s
    · exact ⟨rfl, rfl, id⟩
  | writeBuf sp a bytes => exact hostBuffer_keepsOrShows _ _ _ ⟨rfl, rfl, id⟩
  | start => exact runDecoded_keepsOrShows (decode (.cmd s.host.cmd)) s
  | read reg => exact keepsOrShows_next ⟨rfl, rfl, id⟩
  | readBuf sp a n => exact hostBuffer_keepsOrShows _ _ _ ⟨rfl, rfl, id⟩
  | reset => exact absurd rfl he

theorem controllerTurn_keepsOrShows (s : State) : KeepsOrShows s (controllerTurn s) := by
  unfold controllerTurn
  split
  · split
    · exact runDecoded_keepsOrShows _ s
    · exact keepsOrShows_next (.refl s)
  · exact keepsOrShows_next (.refl s)

/-- Taking a turn off the inbox, or the word to be run, changes nothing of the result: hence the states `{ s with … }`. -/
theorem step_keepsOrShows {s : State} (hs : ∀ rest, ¬ hostTurn .reset rest s) : KeepsOrShows s (step s) := by
  unfold step stepOnce
  split
  next w _ => exact runDecoded_keepsOrShows _ { s with issueWord := none }
  next hw =>
    unfold nextTurn
    split
    next => exact controllerTurn_keepsOrShows s
    next rest _ => exact controllerTurn_keepsOrShows { s with inbox := rest }
    next e rest hin =>
      have he : e ≠ .reset := by
        rintro rfl
        exact hs rest ⟨hw, hin⟩
      exact hostAct_keepsOrShows he { s with inbox := rest }

/-- Settles O28: every micro-operation keeps what the host sees up to its HALT, which shows the result. -/
theorem onlyHaltWritesStatus : Obligations.OnlyHaltWritesStatus :=
  ⟨fun i s => exec_keepsOrShows i s, fun _ t hs => step_keepsOrShows hs t⟩

/-! ## The reset state -/

/-- Settles O21: each value stands in `State.reset` as R35 gives it. -/
theorem resetValues : Obligations.ResetValues :=
  ⟨rfl, rfl, rfl, rfl, rfl, rfl, rfl, rfl, rfl, rfl, rfl, rfl, rfl, rfl⟩

end Sys2Proof.Machine
end

section
/-! PROOFS of the family 20_memory.md, first part: blocks and their memory images, loads and stores (R53 to R57). A
Block is the same data as the sixteen bytes of its image, so what a load returns is said byte by byte. -/

namespace Sys2Proof.Machine

/-! ## A Block and its image -/

theorem blockOfBytes_append_singleton (bs : List Byte) (b : Byte) :
    blockOfBytes (bs ++ [b]) = (blockOfBytes bs <<< 8) ||| b.setWidth 128 := by
  simp [blockOfBytes]

/-- The byte shifted in last is the lowest one. -/
theorem extractLsb'_zero_shiftIn (x : Block) (b : Byte) : ((x <<< 8) ||| b.setWidth 128).extractLsb' 0 8 = b := by
  ext i hi
  simp [hi, show i < 128 by omega]

/-- The bytes shifted in before move up by one byte. -/
theorem extractLsb'_add_eight_shiftIn (x : Block) (b : Byte) {k : Nat} (hk : k + 16 ≤ 128) :
    ((x <<< 8) ||| b.setWidth 128).extractLsb' (k + 8) 8 = x.extractLsb' k 8 := by
  ext i hi
  have hhigh : ¬ k + 8 + i < 8 := by omega
  have hbyte : b.getLsbD (k + 8 + i) = false := BitVec.getLsbD_of_ge _ _ (by omega)
  simp [hhigh, hbyte, show k + 8 + i < 128 by omega, show k + 8 + i - 8 = k + i by omega,
    BitVec.getLsbD_eq_getElem (show k + i < 128 by omega)]

/-- Counted from the last byte, byte `k` of a list lies `8 * k` bits up. -/
theorem extractLsb'_blockOfBytes {bs : List Byte} (hlen : bs.length ≤ 16) {k : Nat} (hk : k < bs.length) :
    (blockOfBytes bs).extractLsb' (8 * k) 8 = bs[bs.length - 1 - k] := by
  induction bs using List.reverseRecOn generalizing k with
  | nil => simp at hk
  | append_singleton bs b ih =>
    simp only [List.length_append, List.length_singleton] at hlen hk
    rw [blockOfBytes_append_singleton]
    cases k with
    | zero => simp [extractLsb'_zero_shiftIn]
    | succ k =>
      rw [show 8 * (k + 1) = 8 * k + 8 by ring, extractLsb'_add_eight_shiftIn _ _ (by omega),
        ih (by omega) (by omega), List.getElem_append_left (by simp; omega)]
      simp [show bs.length - (k + 1) = bs.length - 1 - k by omega]

/-- R53: byte `j` of the image is byte `j` of the sixteen the Block was made of. -/
theorem imageByte_blockOfBytes {bs : List Byte} (hlen : bs.length = 16) {j : Nat} (hj : j < 16) :
    imageByte (blockOfBytes bs) j = bs[j] := by
  have h := extractLsb'_blockOfBytes hlen.le (k := 15 - j) (by omega)
  rw [imageByte, show 120 - 8 * j = 8 * (15 - j) by omega, h]
  simp [hlen, show 15 - (15 - j) = j by omega]

/-- Bit `i` of a Block lies in byte `15 - i / 8` of its image. -/
theorem getLsbD_eq_imageByte (x : Block) {i : Nat} (hi : i < 128) :
    x.getLsbD i = (imageByte x (15 - i / 8)).getLsbD (i % 8) := by
  have hpos : 120 - 8 * (15 - i / 8) + i % 8 = i := by omega
  simp [imageByte, hpos, Nat.mod_lt]

/-- A Block is determined by its image. -/
theorem block_eq_of_imageByte {x y : Block} (h : ∀ j, j < 16 → imageByte x j = imageByte y j) : x = y := by
  refine BitVec.eq_of_getLsbD_eq fun i hi => ?_
  rw [getLsbD_eq_imageByte x hi, getLsbD_eq_imageByte y hi, h _ (by omega)]

/-! ## Loads -/

theorem Memory.getElem_read {m : Memory} {sp : Space} {a n j : Nat} (hj : j < (m.read sp a n).length) :
    (m.read sp a n)[j] = m.readByte sp (a + j) := by
  simp [Memory.read]

/-- R54: byte `j` of a loaded block is the byte at `a + j`. -/
theorem imageByte_loadBlock (m : Memory) (sp : Space) (a : Nat) {j : Nat} (hj : j < 16) :
    imageByte (m.loadBlock sp a) j = m.readByte sp (a + j) := by
  rw [Memory.loadBlock, imageByte_blockOfBytes (m.read_length sp a 16) hj, Memory.getElem_read]

theorem padBytes_length {bs : List Byte} (h : bs.length ≤ 15) : (padBytes bs).length = 16 := by
  simp [padBytes]
  omega

/-- R55, R89: the data, the marker, then zeros. -/
theorem getElem_padBytes {bs : List Byte} {j : Nat} (hj : j < (padBytes bs).length) :
    (padBytes bs)[j] = if h : j < bs.length then bs[j] else if j = bs.length then 0x80#8 else 0x00#8 := by
  simp only [padBytes, List.getElem_append, List.getElem_cons, List.getElem_replicate]
  split_ifs <;> first | rfl | omega

theorem imageByte_loadPartial (m : Memory) (sp : Space) (a : Nat) {n j : Nat} (hn : n ≤ 15) (hj : j < 16) :
    imageByte (m.loadPartial sp a n) j =
      if j < n then m.readByte sp (a + j) else if j = n then 0x80#8 else 0x00#8 := by
  have hlen : (padBytes (m.read sp a n)).length = 16 := padBytes_length (by rwa [Memory.read_length])
  rw [Memory.loadPartial, imageByte_blockOfBytes hlen hj, getElem_padBytes]
  simp only [Memory.read_length, Memory.getElem_read, dite_eq_ite]

/-- A partial load is the block with the image R55 describes. -/
theorem loadPartial_eq {m : Memory} {sp : Space} {a n : Nat} {x : Block} (hn : n ≤ 15)
    (hdata : ∀ j, j < n → m.readByte sp (a + j) = imageByte x j)
    (hpad : ∀ j, j < 16 → n ≤ j → imageByte x j = if j = n then 0x80#8 else 0x00#8) : m.loadPartial sp a n = x := by
  refine block_eq_of_imageByte fun j hj => ?_
  rw [imageByte_loadPartial m sp a hn hj]
  by_cases hjn : j < n
  · rw [if_pos hjn, hdata j hjn]
  · rw [if_neg hjn, hpad j hj (by omega)]

/-! ## Stores -/

/-- R57: what StoreBlock wrote, LoadBlock gives back. -/
theorem loadBlock_storeBlock (m : Memory) (sp : Space) (a : Nat) (x : Block) :
    (m.storeBlock sp a x 16).loadBlock sp a = x := by
  refine block_eq_of_imageByte fun j hj => ?_
  rw [imageByte_loadBlock _ sp a hj]
  exact HoldsBytes_storeBlock m sp a 16 x le_rfl j hj

/-! ## The statements -/

/-- Settles O12: the image of a loaded block, on R54's example, and of a stored one. -/
theorem blocksAreBigEndian : Obligations.BlocksAreBigEndian := by
  refine ⟨fun m sp a j hj => imageByte_loadBlock m sp a hj, fun m sp a h => ?_, loadBlock_storeBlock⟩
  have himage : ∀ j, j < 16 → imageByte 0x000102030405060708090a0b0c0d0e0f#128 j = BitVec.ofNat 8 j := by decide
  refine block_eq_of_imageByte fun j hj => ?_
  rw [imageByte_loadBlock m sp a hj, h j hj, himage j hj]

/-- Settles O13: the image of a padded block, and R55's three examples of it. -/
theorem partialLoadPads : Obligations.PartialLoadPads := by
  refine ⟨fun m sp a n j hn hj => imageByte_loadPartial m sp a hn hj, fun m sp a => ?_, fun m sp a h => ?_,
    fun m sp a h => ?_⟩
  · exact loadPartial_eq (by decide) (fun j hj => absurd hj j.not_lt_zero) (by decide)
  · refine loadPartial_eq (by decide) (fun j hj => ?_) (by decide)
    obtain rfl : j = 0 := by omega
    exact h
  · have hdata : ∀ j, j < 15 → BitVec.ofNat 8 (j + 1) = imageByte 0x0102030405060708090a0b0c0d0e0f80#128 j := by decide
    exact loadPartial_eq (by decide) (fun j hj => (h j hj).trans (hdata j hj)) (by decide)

/-- Settles O14: both halves are the model's laws of a store of up to sixteen bytes. -/
theorem storesWriteTheirBytes : Obligations.StoresWriteTheirBytes := fun m sp a n x _ hn =>
  ⟨HoldsBytes_storeBlock m sp a n x hn, SameOutside_storeBlock m sp a n x hn⟩

end Sys2Proof.Machine
end

section
/-! PROOFS of the family 20_memory.md, second part: what the instructions do to the memory (R52). They touch it in two
ways only, by a store into OUT or TAGOUT inside its space and by the forgetting of HALT. A property of memories that
both ways keep is therefore kept by every instruction: that is proved once, for any such property. -/

namespace Sys2Proof.Machine

/-! ## Properties of the memory that the controller keeps -/

/-- The property outlives a store inside OUT or TAGOUT (20_memory.md R56, R57) and the forgetting of HALT
(46_commands_sequencer.md R205). -/
structure KeptByController (Q : Memory → Prop) : Prop where
  store : ∀ {m : Memory} {sp : Space} {a n : Nat} (x : Block), sp = .out ∨ sp = .tagOut → a + n ≤ 2 ^ 64 → Q m →
    Q (m.storeBlock sp a x n)
  forget : ∀ {m : Memory} (n k gen : Nat), Q m →
    Q { m with out := m.out.forgetFrom n gen, tagOut := m.tagOut.forgetFrom k gen }

/-- The property holds of the memory wherever the flow goes on or halts. -/
def Flow.Keeps (Q : Memory → Prop) (f : Flow) : Prop := f.All fun t => Q t.mem

section Keeps

variable {Q : Memory → Prop} (hQ : KeptByController Q) {s : State}
include hQ

/-! ## The statements that store -/

theorem storePartial_keeps {sp : Space} (hsp : sp = .out ∨ sp = .tagOut) (hs : Q s.mem) (a : Nat) (x : Block)
    (n : Nat) : (storePartial s sp a x n).Keeps Q := by
  unfold storePartial inSpace
  split_ifs with h
  · exact hQ.store x hsp (h.trans (s.spaceSize_le sp)) hs
  · trivial

theorem storeOut_keeps (hs : Q s.mem) (a : Nat) (x : Block) : (storeBlock s .out a x).Keeps Q :=
  storePartial_keeps hQ (.inl rfl) hs a x 16

theorem storeGroup_keeps (hs : Q s.mem) (x : Block × Block × Block) : (storeGroup x s).Keeps Q :=
  (storeOut_keeps hQ hs _ _).andThen fun _ h1 => (storeOut_keeps hQ h1 _ _).andThen fun _ h2 => storeOut_keeps hQ h2 _ _

variable (c : Setup)

theorem itagGenStep_keeps (hs : Q s.mem) : (itagGenStep c s).Keeps Q :=
  (storePartial_keeps (s := extraDouble s) hQ (.inr rfl) hs _ _ 16).andThen fun _ h => h

theorem cadenceGen_keeps (hs : Q s.mem) (i : Len) : (cadenceGen c i s).Keeps Q := by
  unfold cadenceGen
  split_ifs
  · exact itagGenStep_keeps hQ c hs
  · exact hs

theorem encLane_keeps (hs : Q s.mem) (i : Len) (x : Block) {k : Block → Block → State → Flow}
    (hk : ∀ oc y t, Q t.mem → (k oc y t).Keeps Q) : (encLane c i x s k).Keeps Q :=
  (cadenceGen_keeps (s := extraDouble s) hQ c hs i).andThen fun t ht => hk _ _ { t with work := _ } ht

omit hQ

/-! ## The statements that only read -/

theorem itagCompare_keeps (hs : Q s.mem) (dc : Block) : (itagCompare c dc s).Keeps Q := by
  obtain ⟨heq, -, -⟩ | heq := itagCompare_cases c dc s
  · rw [heq]
    exact hs
  · rw [heq]
    exact hs

theorem cadenceChk_keeps (hs : Q s.mem) (i : Len) : (cadenceChk c i s).Keeps Q := by
  unfold cadenceChk
  split_ifs
  · exact itagCompare_keeps (s := extraDouble s) c hs _
  · exact hs

theorem decLane_keeps (hs : Q s.mem) (i : Len) (oc x : Block) {k : Block → State → Flow}
    (hk : ∀ y t, Q t.mem → (k y t).Keeps Q) : (decLane c i oc x s k).Keeps Q := by
  refine Flow.All.andThen (P := fun t => Q t.mem) ?_ fun t ht => hk _ { t with work := _ } ht
  split_ifs
  · exact itagCompare_keeps c hs oc
  · exact hs

/-! ## The micro-operations -/

theorem chkLenStep_keeps (hs : Q s.mem) : (chkLenStep s).Keeps Q := by
  unfold chkLenStep
  split_ifs
  · exact hs
  · exact hs

theorem macFullStep_keeps (hs : Q s.mem) : (macFullStep c s).Keeps Q := loadBlock_all fun _ => hs

theorem macFinalStep_keeps (hs : Q s.mem) : (macFinalStep c s).Keeps Q := loadPartial_all fun _ => hs

theorem finOfsStep_keeps (hs : Q s.mem) : (finOfsStep s).Keeps Q := by
  unfold finOfsStep
  split_ifs
  all_goals exact hs

theorem tagChkStep_keeps (hs : Q s.mem) : (tagChkStep s).Keeps Q := by
  refine readBytes_all fun received => ?_
  split_ifs
  all_goals exact hs

include hQ

theorem blkEncStep_keeps (hs : Q s.mem) : (blkEncStep c s).Keeps Q :=
  (cadenceGen_keeps (s := offsets dbl s) hQ c hs _).andThen fun t h1 => loadBlock_all fun p =>
    (storeOut_keeps (s := (encBlock c p t).2) hQ h1 _ _).andThen fun _ h2 => h2

theorem blkDecStep_keeps (hs : Q s.mem) : (blkDecStep c s).Keeps Q :=
  (cadenceChk_keeps (s := offsets dbl s) c hs _).andThen fun t h1 => loadBlock_all fun x =>
    (storeOut_keeps (s := (decBlock c x t).2) hQ h1 _ _).andThen fun _ h2 => h2

theorem b3EncStep_keeps (hs : Q s.mem) : (b3EncStep c s).Keeps Q := by
  unfold b3EncStep
  extract_lets
  refine loadGroup_all fun p => ?_
  refine encLane_keeps hQ c (by exact hs) _ _ fun _ _ s1 h1 => ?_
  refine encLane_keeps hQ c h1 _ _ fun _ _ s2 h2 => ?_
  refine encLane_keeps hQ c h2 _ _ fun _ _ s3 h3 => ?_
  exact (storeGroup_keeps hQ h3 _).andThen fun _ h4 => h4

theorem b3DecStep_keeps (hs : Q s.mem) : (b3DecStep c s).Keeps Q := by
  unfold b3DecStep
  extract_lets
  refine loadGroup_all fun ct => ?_
  refine decLane_keeps c (by exact hs) _ _ _ fun _ s1 h1 => ?_
  refine decLane_keeps c h1 _ _ _ fun _ s2 h2 => ?_
  refine decLane_keeps c h2 _ _ _ fun _ s3 h3 => ?_
  exact (storeGroup_keeps hQ h3 _).andThen fun _ h4 => h4

theorem finEncStep_keeps (hs : Q s.mem) : (finEncStep c s).Keeps Q :=
  (cadenceGen_keeps hQ c hs _).andThen fun t h1 => loadFinal_all fun p =>
    (storeOut_keeps (s := (encBlock c p t).2) hQ h1 _ _).andThen fun _ h2 => h2

theorem finDecStep_keeps (hs : Q s.mem) : (finDecStep c s).Keeps Q := by
  refine (cadenceChk_keeps c hs _).andThen fun t h1 => loadBlock_all fun _ => ?_
  exact Flow.All.andThen (storePartial_keeps hQ (.inl rfl) (by exact h1) _ _ _) fun _ h2 => h2

theorem tagGenStep_keeps (hs : Q s.mem) : (tagGenStep c s).Keeps Q := by
  unfold tagGenStep
  dsimp only
  split_ifs
  · exact hs
  · exact Flow.All.andThen (storePartial_keeps hQ (.inl rfl) (by exact hs) _ _ _) fun _ h => h

/-! ## The instructions -/

/-- HALT only forgets (R205), so the property holds after the last statement of the micro-operation too. -/
theorem Flow.Keeps.finish {f : Flow} (h : f.Keeps Q) {t : State} (ht : f.finish = .next t) : Q t.mem := by
  obtain hgo | ⟨st, u, hhalt, rfl⟩ := Flow.finish_eq_next.mp ht
  · exact h.of_eq_go hgo
  · subst hhalt
    exact hQ.forget _ _ _ h

omit hQ in
theorem launch_keeps {w : BitVec 3} {t : State} (hs : Q s.mem) (ht : launch w s = .next t) : Q t.mem := by
  obtain ⟨-, rfl⟩ | ⟨-, -, rfl⟩ := launch_eq_next.mp ht
  · exact hs
  · exact hs

omit hQ in
theorem runGf_keeps {f : Block → Block} {t : State} (hs : Q s.mem) (ht : runGf f s = .next t) : Q t.mem := by
  obtain rfl := Host.Outcome.next.inj ht
  exact hs

omit hQ in
theorem runRho_keeps {f : Block → Block → Block × Block} {t : State} (hs : Q s.mem) (ht : runRho f s = .next t) :
    Q t.mem := by
  obtain rfl := Host.Outcome.next.inj ht
  exact hs

theorem exec_keeps {i : Instr} {t : State} (hs : Q s.mem) (ht : exec i s = .next t) : Q t.mem := by
  cases i with
  | colm0Enc | colm0Dec | colm127Enc | colm127Dec | colm0Enc3 | colm0Dec3 | colm127Enc3 | colm127Dec3 =>
    exact launch_keeps hs ht
  | gfDbl | gfTpl | gfSep => exact runGf_keeps hs ht
  | rhoFwd | rhoInv => exact runRho_keeps hs ht
  | chkLen => exact (chkLenStep_keeps hs).finish hQ ht
  | init => exact Flow.Keeps.finish hQ (f := initStep _ s) hs ht
  | macSeed => exact Flow.Keeps.finish hQ (f := macSeedStep _ s) hs ht
  | macFull => exact (macFullStep_keeps _ hs).finish hQ ht
  | macFinal => exact (macFinalStep_keeps _ hs).finish hQ ht
  | macDone => exact Flow.Keeps.finish hQ (f := macDoneStep s) hs ht
  | blkEnc => exact (blkEncStep_keeps hQ _ hs).finish hQ ht
  | blkDec => exact (blkDecStep_keeps hQ _ hs).finish hQ ht
  | b3Enc => exact (b3EncStep_keeps hQ _ hs).finish hQ ht
  | b3Dec => exact (b3DecStep_keeps hQ _ hs).finish hQ ht
  | finOfs => exact (finOfsStep_keeps hs).finish hQ ht
  | finEnc => exact (finEncStep_keeps hQ _ hs).finish hQ ht
  | finDec => exact (finDecStep_keeps hQ _ hs).finish hQ ht
  | itagGen => exact (itagGenStep_keeps hQ _ hs).finish hQ ht
  | itagChk => exact (itagCompare_keeps (s := extraDouble s) _ hs _).finish hQ ht
  | tagGen => exact (tagGenStep_keeps hQ _ hs).finish hQ ht
  | tagChk => exact (tagChkStep_keeps hs).finish hQ ht
  | padChk => exact Flow.Keeps.finish hQ (f := padChkStep s) hs ht
  | halt => exact Flow.Keeps.finish hQ (f := .halt s.ports.haltArg s) hs ht

end Keeps

/-! ## The inputs -/

/-- Every byte of KEY, NONCE, AD, IN and TAGIN reads as in `m`. -/
def SameInputs (m m' : Memory) : Prop :=
  ∀ sp a, sp ≠ .out → sp ≠ .tagOut → m'.readByte sp a = m.readByte sp a

/-- R52: the spaces are disjoint, so neither a store into OUT or TAGOUT nor forgetting them touches an input. -/
theorem sameInputs_kept (m : Memory) : KeptByController (SameInputs m) where
  store {_ sp' _ _} x hsp _ h sp a hout htag := by
    have hne : sp ≠ sp' := by
      rintro rfl
      exact hsp.elim hout htag
    rw [Memory.storeBlock, Memory.readByte_write_of_not (.inl hne), h sp a hout htag]
  forget n k gen h sp a hout htag := by
    rw [← h sp a hout htag]
    cases sp with
    | out => exact absurd rfl hout
    | tagOut => exact absurd rfl htag
    | key | nonce | ad | input | tagIn => rfl

/-- Settles O15: reading the inputs as before is a property of the memory that the controller keeps. -/
theorem instructionsLeaveInputsAlone : Obligations.InstructionsLeaveInputsAlone := fun _ s _ sp a ht =>
  exec_keeps (sameInputs_kept s.mem) (fun _ _ _ _ => rfl) ht sp a

end Sys2Proof.Machine
end

section
/-! PROOFS of the family 20_memory.md, third part: in a consistent state the controller meets no fault (R61).
`Flow.Runs` says that a flow meets none; it follows from one bound per access, and the bounds follow from the geometry of
the command (10_state.md R26) and the registers `Consistent` speaks of. -/

namespace Sys2Proof.Machine

/-! ## Flows that meet no fault -/

/-- The flow meets no fault, and the state in which it goes on has the property. -/
def Flow.Runs (P : State → Prop) : Flow → Prop
  | .go t => P t
  | .halt _ _ => True
  | .fault _ => False

/-- Nothing is said of the state in which a flow goes on. -/
def anyState (_ : State) : Prop := True

section Runs

variable {P Q : State → Prop} {f : Flow} {s : State}

theorem Flow.Runs.andThen {k : State → Flow} (h : f.Runs P) (hk : ∀ t, P t → (k t).Runs Q) : (f.andThen k).Runs Q := by
  cases f with
  | go t => exact hk t h
  | halt st t => trivial
  | fault r => exact h.elim

theorem Flow.Runs.finish (h : f.Runs P) : ∃ t, f.finish = .next t := by
  cases f with
  | go t => exact ⟨t, rfl⟩
  | halt st t => exact ⟨_, rfl⟩
  | fault r => exact h.elim

theorem loadBlock_runs {sp : Space} {a : Nat} {k : Block → Flow} (h : a + 16 ≤ s.spaceSize sp)
    (hk : ∀ x, (k x).Runs P) : (loadBlock s sp a k).Runs P := by
  rw [loadBlock_of_le h]
  exact hk _

theorem loadPartial_runs {sp : Space} {a n : Nat} {k : Block → Flow} (h : a + n ≤ s.spaceSize sp)
    (hk : ∀ x, (k x).Runs P) : (loadPartial s sp a n k).Runs P := by
  rw [loadPartial_of_le h]
  exact hk _

theorem readBytes_runs {sp : Space} {a n : Nat} {k : List Byte → Flow} (h : a + n ≤ s.spaceSize sp)
    (hk : ∀ bs, (k bs).Runs P) : (readBytes s sp a n k).Runs P := by
  rw [readBytes_of_le h]
  exact hk _

theorem loadFinal_runs {k : Block → Flow} (h : 16 * s.nnf + s.tlen ≤ s.spaceSize .input) (hk : ∀ x, (k x).Runs P) :
    (loadFinal s k).Runs P := by
  rw [loadFinal_of_le h]
  exact hk _

theorem storePartial_runs {sp : Space} {a n : Nat} {x : Block} (h : a + n ≤ s.spaceSize sp) :
    (storePartial s sp a x n).Runs anyState := by
  rw [storePartial_of_le h]
  trivial

theorem goTo_runs (p : Phase) : (goTo p s).Runs anyState := trivial

end Runs

/-! ## The geometry of a command (10_state.md R26) -/

theorem State.mlen_lt (s : State) : s.mlen < 2 ^ 64 := by
  have hin := s.latch.inlen.isLt
  have hfree := (Config.freeMlen s.latch.inlen).isLt
  unfold State.mlen
  split_ifs <;> omega

theorem State.tlen_eq (s : State) : s.tlen = if s.mlen % 16 = 0 then 16 else s.mlen % 16 := rfl

/-- The final tag ends 16 bytes behind the message, whole or cut to the length of the final block. -/
theorem State.tag_end (s : State) : 16 * s.nblk + s.tlen = s.mlen + 16 := by
  rw [State.tlen_eq, State.nblk]
  split_ifs <;> omega

/-- The final block has `TLEN` bytes of the message and ends it. -/
theorem State.final_end {s : State} (h : 0 < s.nblk) : 16 * s.nnf + s.tlen = s.mlen := by
  have := s.tag_end
  rw [State.nnf]
  omega

theorem State.nnf_le_mlen (s : State) : 16 * s.nnf ≤ s.mlen := by
  rw [State.nnf, State.nblk]
  omega

theorem State.nnf_lt (s : State) : 16 * s.nnf < 2 ^ 64 := s.nnf_le_mlen.trans_lt s.mlen_lt

theorem toNat_add_of_lt {i : Len} {n : Nat} (h : i.toNat + n < 2 ^ 64) :
    (i + BitVec.ofNat 64 n).toNat = i.toNat + n := by
  rw [BitVec.toNat_add, BitVec.toNat_ofNat, Nat.mod_eq_of_lt (show n < 2 ^ 64 by omega), Nat.mod_eq_of_lt h]

/-- R51, R69: below `2^64` the address of a block does not wrap. -/
theorem blockAddr_eq {i : Len} (hpos : 1 ≤ i.toNat) (hlt : 16 * i.toNat < 2 ^ 64) :
    blockAddr i = 16 * (i.toNat - 1) := by
  unfold blockAddr
  bv_omega

/-- A non-final block lies inside every space that is as long as the message. -/
theorem blockAddr_fits {s : State} {sp : Space} {i : Len} (hpos : 1 ≤ i.toNat) (hle : i.toNat ≤ s.nnf)
    (hsp : s.mlen ≤ s.spaceSize sp) : blockAddr i + 16 ≤ s.spaceSize sp := by
  have hmlen := s.nnf_le_mlen
  have hlt := s.nnf_lt
  rw [blockAddr_eq hpos (by omega)]
  omega

/-- The sizes of IN and OUT (20_memory.md R50) by the length of the message: 16 bytes more on the side of the
ciphertext. -/
structure Sized (s : State) : Prop where
  input : s.spaceSize .input = if s.dec then s.mlen + 16 else s.mlen
  out : s.spaceSize .out = if s.dec then s.mlen else s.mlen + 16

section Sized

variable {s t : State} (h : Sized s)
include h

theorem Sized.congr (hl : t.latch = s.latch) : Sized t where
  input := by rw [State.spaceSize_congr hl, State.dec_congr hl, State.mlen_congr hl, h.input]
  out := by rw [State.spaceSize_congr hl, State.dec_congr hl, State.mlen_congr hl, h.out]

theorem Sized.mlen_le_input : s.mlen ≤ s.spaceSize .input := by
  rw [h.input]
  split_ifs <;> omega

theorem Sized.mlen_le_out : s.mlen ≤ s.spaceSize .out := by
  rw [h.out]
  split_ifs <;> omega

end Sized

/-- Once CHK.LEN has passed, the lengths are those the command's geometry supposes (46_commands_sequencer.md R211,
70_reset_and_hazards.md R268). -/
theorem Consistent.sized {s : State} (h : Consistent s) (hb : s.busy = true) (hp : s.phase ≠ .check) : Sized s := by
  cases hd : s.dec with
  | false =>
    have hmlen : s.mlen = s.latch.inlen.toNat := by simp [State.mlen, hd]
    have hlen := h.encLength hb hd
    constructor
    · simp [State.spaceSize, hd, hmlen]
    · simp only [State.spaceSize, hd, hmlen]
      exact min_eq_left (by simp; omega)
  | true =>
    have hlen := h.decLength hb hd hp
    have hmlen : s.mlen = s.latch.inlen.toNat - 16 := by simp [State.mlen, hd, hlen]
    have hin := s.latch.inlen.isLt
    constructor
    · simp only [State.spaceSize, hd, hmlen, if_true]
      omega
    · simp only [State.spaceSize, hd, hmlen, if_true]
      omega

/-! ## The intermediate tags passed (44_colm127.md R160) -/

theorem tagBytesBefore_succ_of_cadence {s : State} {i : Len} (hpos : 1 ≤ i.toNat) (hc : s.cadence i = true) :
    s.tagBytesBefore (i.toNat + 1) = s.tagBytesBefore i.toNat + 16 := by
  simp only [State.cadence, Bool.and_eq_true, beq_iff_eq] at hc
  obtain ⟨hper, hmod⟩ := hc
  simp only [State.tagBytesBefore, hper, if_true]
  omega

theorem tagBytesBefore_succ_of_not_cadence {s : State} {i : Len} (hpos : 1 ≤ i.toNat) (hc : ¬ s.cadence i = true) :
    s.tagBytesBefore (i.toNat + 1) = s.tagBytesBefore i.toNat := by
  simp only [State.cadence, Bool.and_eq_true, beq_iff_eq] at hc
  unfold State.tagBytesBefore
  split_ifs with hper
  · have hmod : i.toNat % 127 ≠ 0 := fun hmod => hc ⟨hper, hmod⟩
    omega
  · rfl

/-- TAGOUT has room for the tag of every block of the message. -/
theorem tagBytesBefore_succ_le {s : State} {i : Nat} (hle : i ≤ s.nblk) :
    s.tagBytesBefore (i + 1) ≤ s.spaceSize .tagOut := by
  have hdiv : i / 127 ≤ s.nblk / 127 := Nat.div_le_div_right hle
  simp only [State.tagBytesBefore, State.spaceSize, State.ntag, Nat.add_sub_cancel]
  split_ifs <;> omega

theorem State.tagOut_size_lt (s : State) : s.spaceSize .tagOut < 2 ^ 64 := by
  have hmlen := s.mlen_lt
  simp only [State.spaceSize, State.ntag, State.nblk]
  split_ifs <;> omega

/-- `t` runs the command of `s` at the same `IDX`, with the tags before block `i` passed. -/
structure AtBlock (s : State) (i : Nat) (t : State) : Prop where
  latch : t.latch = s.latch
  idx : t.work.idx = s.work.idx
  tagpos : t.work.tagpos.toNat = s.tagBytesBefore i

section AtBlock

variable {s t u : State} {i : Len}

theorem AtBlock.of_tagpos (h : s.work.tagpos.toNat = s.tagBytesBefore s.work.idx.toNat) :
    AtBlock s s.work.idx.toNat s := ⟨rfl, rfl, h⟩

theorem AtBlock.congr {n : Nat} (h : AtBlock s n t) (hl : u.latch = t.latch) (hi : u.work.idx = t.work.idx)
    (ht : u.work.tagpos = t.work.tagpos) : AtBlock s n u :=
  ⟨hl.trans h.latch, hi.trans h.idx, by rw [ht, h.tagpos]⟩

theorem AtBlock.advanceTagpos (h : AtBlock s i.toNat t) (hpos : 1 ≤ i.toNat) (hle : i.toNat ≤ s.nblk)
    (hc : s.cadence i = true) : AtBlock s (i.toNat + 1) (advanceTagpos t) where
  latch := h.latch
  idx := h.idx
  tagpos := by
    have hnext := tagBytesBefore_succ_of_cadence hpos hc
    have hroom := tagBytesBefore_succ_le hle
    have hlt := s.tagOut_size_lt
    rw [advanceTagpos_work_tagpos, toNat_add_of_lt (n := 16) (by rw [h.tagpos]; omega), h.tagpos, hnext]

theorem AtBlock.pass (h : AtBlock s i.toNat t) (hpos : 1 ≤ i.toNat) (hc : ¬ s.cadence i = true) :
    AtBlock s (i.toNat + 1) t :=
  ⟨h.latch, h.idx, by rw [h.tagpos, tagBytesBefore_succ_of_not_cadence hpos hc]⟩

variable (c : Setup)

/-- A tag is produced inside TAGOUT. -/
theorem cadenceGen_runs (h : AtBlock s i.toNat t) (hpos : 1 ≤ i.toNat) (hle : i.toNat ≤ s.nblk) :
    (cadenceGen c i t).Runs (AtBlock s (i.toNat + 1)) := by
  unfold cadenceGen
  rw [State.cadence_congr h.latch]
  split_ifs with hc
  · have hroom : t.work.tagpos.toNat + 16 ≤ t.spaceSize .tagOut := by
      rw [State.spaceSize_congr h.latch, h.tagpos, ← tagBytesBefore_succ_of_cadence hpos hc]
      exact tagBytesBefore_succ_le hle
    rw [itagGenStep_of_le hroom]
    exact AtBlock.advanceTagpos (h.congr rfl rfl rfl) hpos hle hc
  · exact h.pass hpos hc

/-- The check of a tag raises a failure before it would read outside TAGIN (44_colm127.md R162). -/
theorem itagCompare_runs (h : AtBlock s i.toNat t) (hpos : 1 ≤ i.toNat) (hle : i.toNat ≤ s.nblk)
    (hc : s.cadence i = true) (dc : Block) : (itagCompare c dc t).Runs (AtBlock s (i.toNat + 1)) := by
  obtain ⟨heq, -, -⟩ | heq := itagCompare_cases c dc t
  · rw [heq]
    exact h.advanceTagpos hpos hle hc
  · rw [heq]
    trivial

theorem cadenceChk_runs (h : AtBlock s i.toNat t) (hpos : 1 ≤ i.toNat) (hle : i.toNat ≤ s.nblk) :
    (cadenceChk c i t).Runs (AtBlock s (i.toNat + 1)) := by
  unfold cadenceChk
  rw [State.cadence_congr h.latch]
  split_ifs with hc
  · exact itagCompare_runs (t := extraDouble t) c (h.congr rfl rfl rfl) hpos hle hc _
  · exact h.pass hpos hc

variable {P : State → Prop} {n : Nat}

theorem encLane_runs {x : Block} {k : Block → Block → State → Flow} (h : AtBlock s n t) (hi : i.toNat = n)
    (hpos : 1 ≤ n) (hle : n ≤ s.nblk) (hk : ∀ oc y u, AtBlock s (n + 1) u → (k oc y u).Runs P) : (encLane c i x t k).Runs P := by
  subst hi
  have hat : AtBlock s i.toNat (extraDouble t) := h.congr rfl rfl rfl
  exact Flow.Runs.andThen (cadenceGen_runs c hat hpos hle) fun _ hu => hk _ _ _ (hu.congr rfl rfl rfl)

theorem decLane_runs {oc x : Block} {k : Block → State → Flow} (h : AtBlock s n t) (hi : i.toNat = n)
    (hpos : 1 ≤ n) (hle : n ≤ s.nblk) (hk : ∀ y u, AtBlock s (n + 1) u → (k y u).Runs P) : (decLane c i oc x t k).Runs P := by
  subst hi
  refine Flow.Runs.andThen (P := AtBlock s (i.toNat + 1)) ?_ fun _ hu => hk _ _ (hu.congr rfl rfl rfl)
  rw [State.cadence_congr h.latch]
  split_ifs with hc
  · exact itagCompare_runs c h hpos hle hc oc
  · exact h.pass hpos hc

end AtBlock

/-! ## Groups of three blocks (45_batched3.md R181, R182) -/

/-- The group that starts at `IDX` lies among the non-final blocks. -/
structure InGroup (s : State) : Prop where
  pos : 1 ≤ s.work.idx.toNat
  le : s.work.idx.toNat + 2 ≤ s.nnf

section Group

variable {s t : State} {P : State → Prop}

theorem InGroup.congr (h : InGroup s) (hl : t.latch = s.latch) (hi : t.work.idx = s.work.idx) : InGroup t :=
  ⟨by rw [hi]; exact h.pos, by rw [hi, State.nnf_congr hl]; exact h.le⟩

theorem InGroup.le_nblk (h : InGroup s) : s.work.idx.toNat + 2 ≤ s.nblk := h.le.trans (Nat.sub_le _ _)

theorem InGroup.lane_toNat (h : InGroup s) (hi : t.work.idx = s.work.idx) {j : Nat} (hj : j ≤ 2) :
    (t.work.idx + BitVec.ofNat 64 j).toNat = s.work.idx.toNat + j := by
  have hle := h.le
  have hlt := s.nnf_lt
  rw [hi, toNat_add_of_lt (by omega)]

theorem InGroup.fits (h : InGroup s) {sp : Space} (hsp : s.mlen ≤ s.spaceSize sp) {j : Nat} (hj : j ≤ 2) :
    blockAddr (s.work.idx + BitVec.ofNat 64 j) + 16 ≤ s.spaceSize sp := by
  have hpos := h.pos
  have hle := h.le
  exact blockAddr_fits (by rw [h.lane_toNat rfl hj]; omega) (by rw [h.lane_toNat rfl hj]; omega) hsp

theorem InGroup.fits_first (h : InGroup s) {sp : Space} (hsp : s.mlen ≤ s.spaceSize sp) :
    blockAddr s.work.idx + 16 ≤ s.spaceSize sp :=
  blockAddr_fits h.pos (le_trans (Nat.le_add_right _ 2) h.le) hsp

theorem loadGroup_runs {k : Block × Block × Block → Flow} (hg : InGroup s) (hz : Sized s) (hk : ∀ x, (k x).Runs P) :
    (loadGroup s k).Runs P := by
  have hin := hz.mlen_le_input
  rw [loadGroup_of_le (hg.fits_first hin) (hg.fits hin (j := 1) (by decide)) (hg.fits hin (j := 2) (by decide))]
  exact hk _

theorem storeGroup_runs {x : Block × Block × Block} (hg : InGroup s) (hz : Sized s) :
    (storeGroup x s).Runs anyState := by
  have hout := hz.mlen_le_out
  rw [storeGroup_of_le (hg.fits_first hout) (hg.fits hout (j := 1) (by decide)) (hg.fits hout (j := 2) (by decide))]
  trivial

end Group

/-! ## The micro-operations -/

section Step

variable (c : Setup) {s : State}

theorem chkLenStep_runs : (chkLenStep s).Runs anyState := by
  unfold chkLenStep
  split_ifs
  · trivial
  · exact goTo_runs _

theorem initStep_runs : (initStep c s).Runs anyState := trivial

theorem macSeedStep_runs : (macSeedStep c s).Runs anyState := trivial

theorem macFullStep_runs (h : s.work.aidx.toNat < s.afull) : (macFullStep c s).Runs anyState := by
  have hadlen := s.latch.adlen.isLt
  rw [State.afull] at h
  have haddr : adAddr s.work.aidx = 16 * s.work.aidx.toNat := by
    unfold adAddr
    bv_omega
  refine loadBlock_runs ?_ fun _ => trivial
  rw [haddr, State.spaceSize]
  omega

theorem macFinalStep_runs : (macFinalStep c s).Runs anyState :=
  loadPartial_runs (Nat.div_add_mod _ _).le fun _ => goTo_runs _

theorem macDoneStep_runs : (macDoneStep s).Runs anyState := goTo_runs _

theorem finOfsStep_runs : (finOfsStep s).Runs anyState := goTo_runs _

theorem tagChkStep_runs (hz : Sized s) (hd : s.dec = true) : (tagChkStep s).Runs anyState := by
  have hsize : s.spaceSize .input = s.mlen + 16 := by rw [hz.input, if_pos hd]
  refine readBytes_runs (by rw [s.tag_end, hsize]) fun _ => ?_
  split_ifs
  all_goals trivial

theorem tagGenStep_runs (hz : Sized s) : (tagGenStep c s).Runs anyState := by
  unfold tagGenStep
  extract_lets s1 r s2
  split_ifs with hd
  · exact goTo_runs _
  · have hsize : s.spaceSize .out = s.mlen + 16 := by
      rw [hz.out]
      exact if_neg hd
    have hroom : 16 * s2.nblk + s2.tlen ≤ s2.spaceSize .out := (s.tag_end.trans hsize.symm).le
    exact Flow.Runs.andThen (storePartial_runs hroom) fun _ _ => trivial

theorem padChkStep_runs : (padChkStep s).Runs anyState := trivial

/-! ### The non-final blocks -/

/-- `IDX` is a non-final block, and the tags before it are passed (the message phase of 46_commands_sequencer.md
R210). -/
structure AtMsg (s : State) : Prop where
  sized : Sized s
  pos : 1 ≤ s.work.idx.toNat
  le : s.work.idx.toNat ≤ s.nnf
  tagpos : s.work.tagpos.toNat = s.tagBytesBefore s.work.idx.toNat

theorem AtMsg.le_nblk (h : AtMsg s) : s.work.idx.toNat ≤ s.nblk := h.le.trans (Nat.sub_le _ _)

/-- The block at `IDX` still lies inside IN and OUT once its tag has passed. -/
theorem AtMsg.fits (h : AtMsg s) {n : Nat} {t : State} (ht : AtBlock s n t) {sp : Space}
    (hsp : s.mlen ≤ s.spaceSize sp) : blockAddr t.work.idx + 16 ≤ t.spaceSize sp := by
  rw [ht.idx, State.spaceSize_congr ht.latch]
  exact blockAddr_fits h.pos h.le hsp

theorem blkEncStep_runs (h : AtMsg s) : (blkEncStep c s).Runs anyState := by
  have hat : AtBlock s s.work.idx.toNat (offsets dbl s) := (AtBlock.of_tagpos h.tagpos).congr rfl rfl rfl
  refine (cadenceGen_runs c hat h.pos h.le_nblk).andThen fun t ht => ?_
  refine loadBlock_runs (h.fits ht h.sized.mlen_le_input) fun p => ?_
  exact Flow.Runs.andThen (storePartial_runs (h.fits ht h.sized.mlen_le_out)) fun _ _ => trivial

theorem blkDecStep_runs (h : AtMsg s) : (blkDecStep c s).Runs anyState := by
  have hat : AtBlock s s.work.idx.toNat (offsets dbl s) := (AtBlock.of_tagpos h.tagpos).congr rfl rfl rfl
  refine (cadenceChk_runs c hat h.pos h.le_nblk).andThen fun t ht => ?_
  refine loadBlock_runs (h.fits ht h.sized.mlen_le_input) fun x => ?_
  exact Flow.Runs.andThen (storePartial_runs (h.fits ht h.sized.mlen_le_out)) fun _ _ => trivial

/-- R180: the sequencer issues a group only if three non-final blocks remain. -/
theorem AtMsg.inGroup (h : AtMsg s) (hg : s.groupReady = true) : InGroup s :=
  ⟨h.pos, of_decide_eq_true hg⟩

theorem b3EncStep_runs (h : AtMsg s) (hg : InGroup s) : (b3EncStep c s).Runs anyState := by
  have hblk := hg.le_nblk
  unfold b3EncStep
  extract_lets om0 om1 om2 work s0
  have hat : AtBlock s s.work.idx.toNat s0 := (AtBlock.of_tagpos h.tagpos).congr rfl rfl rfl
  refine loadGroup_runs (hg.congr rfl rfl) (h.sized.congr rfl) fun p => ?_
  refine encLane_runs c hat rfl h.pos (by omega) fun _ _ s1 h1 => ?_
  refine encLane_runs c h1 (hg.lane_toNat h1.idx (j := 1) (by decide)) (by omega) (by omega) fun _ _ s2 h2 => ?_
  refine encLane_runs c h2 (hg.lane_toNat h2.idx (j := 2) (by decide)) (by omega) (by omega) fun _ _ s3 h3 => ?_
  exact (storeGroup_runs (hg.congr h3.latch h3.idx) (h.sized.congr h3.latch)).andThen fun _ _ => trivial

theorem b3DecStep_runs (h : AtMsg s) (hg : InGroup s) : (b3DecStep c s).Runs anyState := by
  have hblk := hg.le_nblk
  unfold b3DecStep
  extract_lets om0 om1 om2 oc0 oc1 oc2 work s0
  have hat : AtBlock s s.work.idx.toNat s0 := (AtBlock.of_tagpos h.tagpos).congr rfl rfl rfl
  refine loadGroup_runs (hg.congr rfl rfl) (h.sized.congr rfl) fun ct => ?_
  refine decLane_runs c hat rfl h.pos (by omega) fun _ s1 h1 => ?_
  refine decLane_runs c h1 (hg.lane_toNat h1.idx (j := 1) (by decide)) (by omega) (by omega) fun _ s2 h2 => ?_
  refine decLane_runs c h2 (hg.lane_toNat h2.idx (j := 2) (by decide)) (by omega) (by omega) fun _ s3 h3 => ?_
  exact (storeGroup_runs (hg.congr h3.latch h3.idx) (h.sized.congr h3.latch)).andThen fun _ _ => trivial

/-! ### The final block -/

/-- `IDX` is the final block of a message that is not empty, and the tags before it are passed. -/
structure AtFinal (s : State) : Prop where
  sized : Sized s
  nonempty : 0 < s.nblk
  idx : s.work.idx.toNat = s.nnf + 1
  tagpos : s.work.tagpos.toNat = s.tagBytesBefore s.work.idx.toNat

theorem AtFinal.pos (h : AtFinal s) : 1 ≤ s.work.idx.toNat := h.idx ▸ Nat.le_add_left 1 _

theorem AtFinal.le_nblk (h : AtFinal s) : s.work.idx.toNat ≤ s.nblk := by
  rw [h.idx, State.nnf, Nat.sub_add_cancel h.nonempty]

theorem AtFinal.end_eq (h : AtFinal s) {t : State} (hl : t.latch = s.latch) : 16 * t.nnf + t.tlen = t.mlen := by
  rw [State.nnf_congr hl, State.tlen_congr hl, State.mlen_congr hl]
  exact State.final_end h.nonempty

/-- 16 bytes from the start of the final block on, message and tag, lie inside the side of the ciphertext. -/
theorem final_fits {sp : Space} (hsp : s.spaceSize sp = s.mlen + 16) : 16 * s.nnf + 16 ≤ s.spaceSize sp := by
  have := s.nnf_le_mlen
  omega

theorem finEncStep_runs (h : AtFinal s) (hd : s.dec = false) : (finEncStep c s).Runs anyState := by
  refine (cadenceGen_runs c (AtBlock.of_tagpos h.tagpos) h.pos h.le_nblk).andThen fun t ht => ?_
  have hz : Sized t := h.sized.congr ht.latch
  have hdec : t.dec = false := (State.dec_congr ht.latch).trans hd
  have hout : t.spaceSize .out = t.mlen + 16 := by simp [hz.out, hdec]
  refine loadFinal_runs ((h.end_eq ht.latch).le.trans hz.mlen_le_input) fun p => ?_
  exact Flow.Runs.andThen (storePartial_runs (final_fits hout)) fun _ _ => goTo_runs _

theorem finDecStep_runs (h : AtFinal s) (hd : s.dec = true) : (finDecStep c s).Runs anyState := by
  refine (cadenceChk_runs c (AtBlock.of_tagpos h.tagpos) h.pos h.le_nblk).andThen fun t ht => ?_
  have hz : Sized t := h.sized.congr ht.latch
  have hdec : t.dec = true := (State.dec_congr ht.latch).trans hd
  have hin : t.spaceSize .input = t.mlen + 16 := by simp [hz.input, hdec]
  refine loadBlock_runs (final_fits hin) fun x => ?_
  have hroom : 16 * t.nnf + t.tlen ≤ t.spaceSize .out := (h.end_eq ht.latch).le.trans hz.mlen_le_out
  exact Flow.Runs.andThen (storePartial_runs hroom) fun _ _ => goTo_runs _

end Step

/-! ## The controller's turn -/

theorem Consistent.atMsg {s : State} (h : Consistent s) (hb : s.busy = true) (hp : s.phase = .msg) : AtMsg s where
  sized := h.sized hb (by simp [hp])
  pos := (h.msg hp).1
  le := (h.msg hp).2
  tagpos := h.tagpos (.inl hp)

theorem Consistent.atFinal {s : State} (h : Consistent s) (hb : s.busy = true) (hp : s.phase = .final) :
    AtFinal s where
  sized := h.sized hb (by simp [hp])
  nonempty := (h.final hp).2
  idx := (h.final hp).1
  tagpos := h.tagpos (.inr (.inr hp))

/-- Taking a turn off the inbox keeps the sequencer's invariant. -/
theorem Consistent.withInbox {s : State} (h : Consistent s) (inbox : List Turn) : Consistent { s with inbox := inbox } :=
  { h with }

/-- The word is a micro-operation that answers a next state. -/
def Completes (u : BitVec 5) (s : State) : Prop := ∃ i t, decode (.uop u) = .ok i ∧ exec i s = .next t

theorem Flow.Runs.completes {P : State → Prop} {f : Flow} {s : State} {u : BitVec 5} (h : f.Runs P) (i : Instr)
    (hd : decode (.uop u) = .ok i) (he : exec i s = f.finish) : Completes u s := by
  obtain ⟨t, ht⟩ := h.finish
  exact ⟨i, t, hd, he.trans ht⟩

theorem msgWord_completes {s : State} (h : AtMsg s) : Completes (msgWord s) s := by
  unfold msgWord
  split_ifs with hw hd hd
  · exact (b3DecStep_runs _ h (h.inGroup (Bool.and_eq_true_iff.mp hw).2)).completes .b3Dec rfl rfl
  · exact (b3EncStep_runs _ h (h.inGroup (Bool.and_eq_true_iff.mp hw).2)).completes .b3Enc rfl rfl
  · exact (blkDecStep_runs _ h).completes .blkDec rfl rfl
  · exact (blkEncStep_runs _ h).completes .blkEnc rfl rfl

theorem finalWord_completes {s : State} (h : AtFinal s) : Completes (if s.dec then 13#5 else 12#5) s := by
  split_ifs with hd
  · exact (finDecStep_runs _ h hd).completes .finDec rfl rfl
  · exact (finEncStep_runs _ h (eq_false_of_ne_true hd)).completes .finEnc rfl rfl

/-- Every micro-operation the sequencer issues in a consistent state answers a next state. -/
theorem issued_completes {s : State} {u : BitVec 5} (h : Consistent s) (hb : s.busy = true) (hu : issued s = some u) :
    Completes u s := by
  unfold issued at hu
  cases hp : s.phase <;> rw [hp] at hu <;> cases hu
  case check => exact chkLenStep_runs.completes .chkLen rfl rfl
  case init => exact (initStep_runs _).completes .init rfl rfl
  case macSeed => exact (macSeedStep_runs _).completes .macSeed rfl rfl
  case macFull => exact (macFullStep_runs _ (h.macFull hp)).completes .macFull rfl rfl
  case macFinal => exact (macFinalStep_runs _).completes .macFinal rfl rfl
  case macDone => exact macDoneStep_runs.completes .macDone rfl rfl
  case msg => exact msgWord_completes (h.atMsg hb hp)
  case finOfs => exact finOfsStep_runs.completes .finOfs rfl rfl
  case final => exact finalWord_completes (h.atFinal hb hp)
  case tag => exact (tagGenStep_runs _ (h.sized hb (by simp [hp]))).completes .tagGen rfl rfl
  case tagChk => exact (tagChkStep_runs (h.sized hb (by simp [hp])) (h.tagChk hp)).completes .tagChk rfl rfl
  case padChk => exact padChkStep_runs.completes .padChk rfl rfl

theorem controllerTurn_completes {s : State} (h : Consistent s) : ∃ t, controllerTurn s = .next t := by
  unfold controllerTurn
  split
  next hb =>
    split
    next u hu =>
      obtain ⟨i, t, hd, ht⟩ := issued_completes h hb hu
      exact ⟨t, by rw [hd]; exact ht⟩
    next => exact ⟨s, rfl⟩
  next => exact ⟨s, rfl⟩

/-- Settles O51: on the controller's turn no access leaves its space and no word is refused. -/
theorem controllerNeverStops : Obligations.ControllerNeverStops := by
  intro s h hmoves
  have hstep : step s = nextTurn s := by simp [step, stepOnce, h.noIssue]
  unfold controllerMoves at hmoves
  rw [hstep]
  unfold nextTurn
  split
  next => exact controllerTurn_completes h
  next rest _ => exact controllerTurn_completes (h.withInbox rest)
  next e rest hin => simp [hin] at hmoves

end Sys2Proof.Machine
end

section
/-! PROOFS of the family 30_encoding.md. An instruction and its word determine each other (R81, R83, R84, R86), and the
words of no instruction are the ill-formed ones (R87). The unit operations answer a next state (R83, R84). -/

namespace Sys2Proof

/-! ## The word of an instruction -/

@[simp] theorem decode_encode (i : Instr) : decode (encode i) = .ok i := by
  cases i <;> rfl

/-! ## The instruction of a word, format by format -/

@[simp] theorem encode_decodeCmd (b : BitVec 3) : encode (decodeCmd b) = .cmd b := by
  revert b; decide

@[simp] theorem encode_decodeRhod (b : BitVec 1) : encode (decodeRhod b) = .rhod b := by
  revert b; decide

/-- Each branch of the decoder that answers an instruction is taken by one word, the one with that branch's number. -/
theorem encode_of_decodeGfop {b : BitVec 2} {i : Instr} (h : decodeGfop b = .ok i) : encode i = .gfop b := by
  unfold decodeGfop at h
  split at h <;> cases h
  all_goals
    next hnum => exact congrArg CtrlWord.gfop (BitVec.eq_of_toNat_eq hnum).symm

/-- As for `gfop`, each branch that answers an instruction is taken by one word. -/
theorem encode_of_decodeUop {b : BitVec 5} {i : Instr} (h : decodeUop b = .ok i) : encode i = .uop b := by
  unfold decodeUop at h
  split at h <;> cases h
  all_goals
    next hnum => exact congrArg CtrlWord.uop (BitVec.eq_of_toNat_eq hnum).symm

theorem encode_of_decode {w : CtrlWord} {i : Instr} (h : decode w = .ok i) : encode i = w := by
  cases w with
  | cmd b => cases h; exact encode_decodeCmd b
  | gfop b => exact encode_of_decodeGfop h
  | rhod b => cases h; exact encode_decodeRhod b
  | uop b => exact encode_of_decodeUop h

/-- Settles O1: one direction goes through the instructions, the other through the formats of the word. -/
theorem decodeAndEncodeAgree : Obligations.DecodeAndEncodeAgree :=
  ⟨decode_encode, fun _ _ => encode_of_decode⟩

/-! ## The words that are refused (R87) -/

/-- The decoder answers an instruction on the well-formed words and on no other. -/
theorem decode_isOk (w : CtrlWord) : (decode w).isOk = w.wf := by
  cases w with
  | cmd b => rfl
  | gfop b => revert b; decide
  | rhod b => rfl
  | uop b => revert b; decide

theorem decode_refuses_iff (w : CtrlWord) : (∃ e, decode w = .error e) ↔ w.wf = false := by
  rw [← decode_isOk]
  cases decode w with
  | ok i => exact iff_of_false (fun ⟨_, he⟩ => nomatch he) (fun hok => nomatch hok)
  | error e => exact iff_of_true ⟨e, rfl⟩ rfl

/-- Settles O2: what is refused is what is ill formed, read off for each format. -/
theorem illegalWordsAreRefused : Obligations.IllegalWordsAreRefused := by
  refine ⟨fun b => ⟨decodeCmd b, rfl⟩, fun b => ⟨decodeRhod b, rfl⟩, fun b => ?_, fun b => ?_⟩
  · simp [decode_refuses_iff, CtrlWord.wf]
  · rw [decode_refuses_iff]
    simp only [CtrlWord.wf, Bool.and_eq_false_iff, decide_eq_false_iff_not]
    omega

/-- Settles O3: each word is the one `encode` gives its instruction. -/
theorem sampleWordsDecode : Obligations.SampleWordsDecode :=
  ⟨decode_encode .colm0Dec, decode_encode .colm127Enc, decode_encode .colm0Enc3, decode_encode .gfTpl,
    decode_encode .rhoInv, decode_encode .b3Dec, decode_encode .halt⟩

end Sys2Proof

namespace Sys2Proof.Machine

/-! ## The units run by themselves (R83, R84) -/

theorem runGf_eq (f : Block → Block) (s : State) :
    runGf f s = .next { s with ports := { s.ports with gfOut := f s.ports.gfIn } } := rfl

theorem runRho_eq (f : Block → Block → Block × Block) (s : State) :
    runRho f s = .next { s with
      work := { s.work with w := (f s.ports.rhoIn s.work.w).2 }
      ports := { s.ports with rhoOut := (f s.ports.rhoIn s.work.w).1 } } := rfl

/-- Settles O11: three of the operations run the offset generator, two run the rho unit. -/
theorem unitOperationsComplete : Obligations.UnitOperationsComplete := fun s =>
  ⟨runGf_eq dbl s, runGf_eq tpl s, runGf_eq sep s, runRho_eq rho s, runRho_eq rhoInv s⟩

end Sys2Proof.Machine
end

section
/-! PROOFS of the family 40_gf_offset.md. The offset generator's functions byte by byte and on the rules' cases (R100 to
R102), and the state INIT leaves (R105) with the fields of its seed (30_encoding.md R88). -/

namespace Sys2Proof.Machine

/-! ## Doubling, byte by byte (R100) -/

theorem imageByte_xor (x y : Block) (i : Nat) : imageByte (x ^^^ y) i = imageByte x i ^^^ imageByte y i :=
  BitVec.extractLsb'_xor

theorem getLsbD_imageByte (x : Block) (i : Nat) {k : Nat} (hk : k < 8) :
    (imageByte x i).getLsbD k = x.getLsbD (120 - 8 * i + k) := by
  simp [imageByte, hk]

/-- The top bit of the most significant byte is bit 127. -/
theorem imageByte_zero_topBit (x : Block) : imageByte x 0 >>> 7 = 1#8 ↔ x.getLsbD 127 = true := by
  have htop : imageByte x 0 >>> 7 = BitVec.setWidth 8 (BitVec.ofBool (x.getLsbD 127)) := by
    ext k hk
    cases k with
    | zero => simp [imageByte]
    | succ k => simp [imageByte, show ¬ 7 + (k + 1) < 8 by omega]
  rw [htop]
  cases x.getLsbD 127 <;> decide

/-- Inside a byte each bit moves up by one. -/
theorem getLsbD_imageByte_shiftLeft_one_succ (x : Block) (i : Nat) {k : Nat} (hk : k + 1 < 8) :
    (imageByte (x <<< 1) i).getLsbD (k + 1) = (imageByte x i <<< 1).getLsbD (k + 1) := by
  have hpos : 120 - 8 * i + (k + 1) < 128 := by omega
  simp [getLsbD_imageByte, hk, Nat.lt_of_succ_lt hk, hpos, -BitVec.getLsbD_eq_getElem]

/-- The lowest bit of a byte is the top bit of the next less significant byte. -/
theorem getLsbD_imageByte_shiftLeft_one_zero (x : Block) {i : Nat} (hi : i < 15) :
    (imageByte (x <<< 1) i).getLsbD 0 = (imageByte x (i + 1)).getLsbD 7 := by
  have hlow : ¬ 120 - 8 * i = 0 := by omega
  have hbelow : 120 - 8 * i - 1 = 120 - 8 * (i + 1) + 7 := by omega
  simp [getLsbD_imageByte, show 120 - 8 * i < 128 by omega, hlow, hbelow, -BitVec.getLsbD_eq_getElem]

/-- A byte shifted left takes in the top bit of the next less significant byte. -/
theorem imageByte_shiftLeft_one (x : Block) {i : Nat} (hi : i < 15) :
    imageByte (x <<< 1) i = (imageByte x i <<< 1) ||| (imageByte x (i + 1) >>> 7) := by
  refine BitVec.eq_of_getLsbD_eq fun k hk => ?_
  rw [BitVec.getLsbD_or, BitVec.getLsbD_ushiftRight]
  cases k with
  | zero => simp [getLsbD_imageByte_shiftLeft_one_zero x hi, -BitVec.getLsbD_eq_getElem]
  | succ k =>
    have hnoCarry : (imageByte x (i + 1)).getLsbD (7 + (k + 1)) = false := BitVec.getLsbD_of_ge _ _ (by omega)
    rw [getLsbD_imageByte_shiftLeft_one_succ x i hk, hnoCarry, Bool.or_false]

/-- Nothing is shifted into the least significant byte. -/
theorem imageByte_shiftLeft_one_last (x : Block) : imageByte (x <<< 1) 15 = imageByte x 15 <<< 1 := by
  refine BitVec.eq_of_getLsbD_eq fun k hk => ?_
  cases k with
  | zero => simp [imageByte]
  | succ k => exact getLsbD_imageByte_shiftLeft_one_succ x 15 hk

/-- The reduction constant lies in the least significant byte. -/
theorem imageByte_reduction (b : Bool) {i : Nat} (hi : i < 16) :
    imageByte (if b then 0x87#128 else 0#128) i = if i = 15 ∧ b then 0x87#8 else 0#8 := by
  revert b i; decide

theorem imageByte_dbl_of_lt (x : Block) {i : Nat} (hi : i < 15) :
    imageByte (dbl x) i = (imageByte x i <<< 1) ||| (imageByte x (i + 1) >>> 7) := by
  rw [dbl, imageByte_xor, imageByte_shiftLeft_one x hi, imageByte_reduction _ (by omega), if_neg (by omega),
    BitVec.xor_zero]

theorem imageByte_dbl_last (x : Block) :
    imageByte (dbl x) 15 = (imageByte x 15 <<< 1) ^^^ (if imageByte x 0 >>> 7 = 1#8 then 0x87#8 else 0#8) := by
  rw [dbl, imageByte_xor, imageByte_shiftLeft_one_last, imageByte_reduction _ (by omega)]
  simp only [imageByte_zero_topBit, true_and]

/-- Settles O6: the model's doubling is the shift of R100, its bytes follow, and the cases are evaluated. -/
theorem doublingIsAsStated : Obligations.DoublingIsAsStated :=
  ⟨decode_encode .gfDbl, fun _ => rfl, fun x _ hi => imageByte_dbl_of_lt x hi, imageByte_dbl_last, by decide, by decide,
    by decide, by decide, by decide⟩

/-! ## Tripling and septupling (R101, R102) -/

/-- Settles O7: the model's functions are the stated ones, and the cases are evaluated. -/
theorem triplingAndSeptuplingAreAsStated : Obligations.TriplingAndSeptuplingAreAsStated :=
  ⟨decode_encode .gfTpl, decode_encode .gfSep, fun _ => rfl, fun _ => rfl, by decide, by decide, by decide, by decide,
    by decide, by decide, by decide, by decide, by decide, by decide⟩

/-! ## The seed (30_encoding.md R88) and INIT (R105) -/

/-- Bits 63:0 of the seed are the variant's constant. -/
theorem extractLsb'_seedBlock (c : Setup) (s : State) :
    (seedBlock c s).extractLsb' 0 64 = if s.periodic then c.param127 else c.param0 := by
  ext i hi
  simp [seedBlock, hi, show i < 128 by omega]

/-- Above bit 63 the constant adds nothing to the shifted nonce. -/
theorem extractLsb'_add_sixtyFour_or (x : Block) (p : BitVec 64) {k : Nat} (hk : k + 8 ≤ 64) :
    ((x <<< 64) ||| p.setWidth 128).extractLsb' (64 + k) 8 = x.extractLsb' k 8 := by
  ext i hi
  have hconst : p.getLsbD (64 + k + i) = false := BitVec.getLsbD_of_ge _ _ (by omega)
  simp [hconst, show 64 + k + i < 128 by omega, show ¬ 64 + k + i < 64 by omega,
    show 64 + k + i - 64 = k + i by omega, ← BitVec.getLsbD_eq_getElem]

theorem imageByte_seedBlock (c : Setup) (s : State) {j : Nat} (hj : j < 8) :
    imageByte (seedBlock c s) j = s.mem.readByte .nonce j := by
  have hlen : (s.mem.read .nonce 0 8).length = 8 := s.mem.read_length .nonce 0 8
  have h := extractLsb'_blockOfBytes (k := 7 - j) (hlen.trans_le (by decide)) (by omega)
  rw [imageByte, show 120 - 8 * j = 64 + 8 * (7 - j) by omega, seedBlock, extractLsb'_add_sixtyFour_or _ _ (by omega),
    h, Memory.getElem_read]
  simp [hlen, show 7 - (7 - j) = j by omega]

/-- Settles O29: the seed is the model's, whose two fields are known, and INIT is one assignment. -/
theorem initResult : Obligations.InitResult :=
  ⟨Config.chip.params_differ, fun s => ⟨seedBlock Config.chip s, fun _ hj => imageByte_seedBlock _ s hj,
    extractLsb'_seedBlock _ s, rfl⟩⟩

end Sys2Proof.Machine
end

section
/-! PROOFS of the family 41_rho.md. The two directions of the rho transform in both stated forms and on the rules' cases
(R120, R121), and the inverse law (R122). -/

namespace Sys2Proof.Machine

/-! ## Exclusive or with a multiple of the chaining state -/

theorem dbl_zero : dbl 0#128 = 0#128 := by decide

theorem tpl_zero : tpl 0#128 = 0#128 := by decide

/-- Tripling and the chaining state itself differ by the doubling (R101), which is why both directions of rho reach one
new chaining state. -/
theorem self_xor_tpl (s : Block) : s ^^^ tpl s = dbl s := by
  rw [tpl, BitVec.xor_comm (dbl s) s, xor_cancel_left]

theorem tpl_xor_dbl (s : Block) : tpl s ^^^ dbl s = s := by
  rw [tpl, BitVec.xor_comm (dbl s) s, xor_cancel_right]

/-! ## The stated forms (R120, R121) -/

theorem rho_eq_xor_tpl_dbl (x s : Block) : rho x s = (x ^^^ tpl s, x ^^^ dbl s) := by
  have hw : dbl s ^^^ x = x ^^^ dbl s := BitVec.xor_comm _ _
  rw [rho, hw, tpl, BitVec.xor_assoc]

theorem rhoInv_eq_xor_tpl (y s : Block) : rhoInv y s = (y ^^^ tpl s, s ^^^ y) := by
  have hx : dbl s ^^^ (s ^^^ y) = y ^^^ tpl s := by
    rw [tpl, ← BitVec.xor_assoc, BitVec.xor_comm]
  rw [rhoInv, hx]

/-! ## The corner cases (R120, R121) -/

theorem rho_zero_state (x : Block) : rho x 0#128 = (x, x) := by
  rw [rho_eq_xor_tpl_dbl, tpl_zero, dbl_zero, BitVec.xor_zero]

theorem rhoInv_zero_state (y : Block) : rhoInv y 0#128 = (y, y) := by
  rw [rhoInv_eq_xor_tpl, tpl_zero, BitVec.xor_zero, BitVec.zero_xor]

theorem rho_zero_block (s : Block) : rho 0#128 s = (tpl s, dbl s) := by
  rw [rho_eq_xor_tpl_dbl, BitVec.zero_xor, BitVec.zero_xor]

/-- The chaining state may become zero (R120). -/
theorem rho_dbl_snd (s : Block) : (rho (dbl s) s).2 = 0#128 := by
  rw [rho_eq_xor_tpl_dbl, BitVec.xor_self]

theorem rhoInv_self_snd (s : Block) : (rhoInv s s).2 = 0#128 := by
  rw [rhoInv_eq_xor_tpl, BitVec.xor_self]

/-- Settles O9: the pseudocode is the model's own form, the other form and the corner cases follow from it, and the
examples are evaluated. -/
theorem rhoIsAsStated : Obligations.RhoIsAsStated :=
  ⟨decode_encode .rhoFwd, decode_encode .rhoInv, rho_eq_xor_tpl_dbl, fun _ _ => rfl, rhoInv_eq_xor_tpl,
    fun _ _ => rfl, fun x => ⟨rho_zero_state x, rhoInv_zero_state x⟩,
    fun s => ⟨rho_zero_block s, rho_dbl_snd s, rhoInv_self_snd s⟩, by decide, by decide⟩

/-! ## The inverse law (R122) -/

/-- Adding `3·s` twice gives the block back, and the new state is `s ^ 3·s ^ x = 2·s ^ x`. -/
theorem rhoInv_rho (x s : Block) : rhoInv (rho x s).1 s = (x, (rho x s).2) := by
  have hstate : s ^^^ (x ^^^ tpl s) = x ^^^ dbl s := by
    rw [BitVec.xor_comm x, ← BitVec.xor_assoc, self_xor_tpl, BitVec.xor_comm]
  rw [rho_eq_xor_tpl_dbl, rhoInv_eq_xor_tpl, xor_cancel_right, hstate]

/-- Adding `3·s` twice gives the block back, and the new state is `y ^ 3·s ^ 2·s = y ^ s`. -/
theorem rho_rhoInv (y s : Block) : rho (rhoInv y s).1 s = (y, (rhoInv y s).2) := by
  have hstate : y ^^^ tpl s ^^^ dbl s = s ^^^ y := by
    rw [BitVec.xor_assoc, tpl_xor_dbl, BitVec.xor_comm]
  rw [rhoInv_eq_xor_tpl, rho_eq_xor_tpl_dbl, xor_cancel_right, hstate]

/-- Settles O10: each direction is the other's inverse at a fixed chaining state. -/
theorem rhoInverts : Obligations.RhoInverts := ⟨rhoInv_rho, rho_rhoInv⟩

end Sys2Proof.Machine
end

section
/-! PROOFS of the family 42_ad_mac.md. The four steps of the associated-data MAC (R130 to R133): what each writes, its next
phase, and that its load lies inside AD. The steps are stated for every cipher; an instruction is its step at
`Config.chip`. -/

namespace Sys2Proof.Machine

/-! ## The geometry of the associated data (10_state.md R26) -/

/-- The two orders in which the spec and the model ask whether a full block exists (R130). -/
theorem ite_afull_pos (s : State) (p q : Phase) :
    (if 0 < s.afull then p else q) = if s.latch.adlen.toNat / 16 = 0 then q else p := by
  simp only [State.afull, Nat.pos_iff_ne_zero, ne_eq, ite_not]

/-- The leftover bytes end where the associated data does, also when there are none. -/
theorem State.afull_arlen_le (s : State) : 16 * s.afull + s.arlen ≤ s.spaceSize .ad :=
  (Nat.div_add_mod s.latch.adlen.toNat 16).le

/-! ## The steps -/

/-- R130: `DA` is read and not advanced. -/
theorem macSeedStep_eq (c : Setup) (s : State) :
    macSeedStep c s = .go { s with
      work := { s.work with v := c.bcEnc s.work.rke (s.work.seed ^^^ s.work.da) }
      phase :=
        if s.latch.adlen.toNat = 0 then .macDone
        else if s.latch.adlen.toNat / 16 = 0 then .macFinal
        else .macFull } := by
  rw [macSeedStep, ite_afull_pos, encipher]

/-- R131, where the block lies inside AD: the offset is advanced before it is added, and the next phase is that of the
counter as just incremented. -/
theorem macFullStep_of_le (c : Setup) {s : State} (h : adAddr s.work.aidx + 16 ≤ s.latch.adlen.toNat) :
    macFullStep c s = .go { s with
      work := { s.work with
        da := dbl s.work.da
        v := s.work.v ^^^
          c.bcEnc s.work.rke (s.mem.loadBlock .ad (adAddr s.work.aidx) ^^^ dbl s.work.da)
        aidx := s.work.aidx + 1#64 }
      phase := if (s.work.aidx + 1#64).toNat < s.latch.adlen.toNat / 16 then .macFull else .macFinal } := by
  have hroom : adAddr s.work.aidx + 16 ≤ s.spaceSize .ad := h
  rw [macFullStep, loadBlock_of_le hroom]
  rfl

/-- R132: no remainder of the associated data makes the step leave AD. -/
theorem macFinalStep_eq (c : Setup) (s : State) :
    macFinalStep c s = .go { s with
      work := { s.work with
        da := sep s.work.da
        v := s.work.v ^^^
          c.bcEnc s.work.rke (s.mem.loadPartial .ad (16 * s.afull) s.arlen ^^^ sep s.work.da) }
      phase := .macDone } := by
  rw [macFinalStep, loadPartial_of_le s.afull_arlen_le]
  rfl

/-- R133: a message with a non-final block goes on to it, any other to the offsets of its end. -/
theorem macDoneStep_eq (s : State) :
    macDoneStep s = .go { s with
      work := { s.work with w := s.work.v }
      phase := if 1 ≤ s.nnf then .msg else .finOfs } := rfl

/-! ## The statements -/

/-- Settles O30: both instructions are one assignment, and the phases after the seed are those of R130. -/
theorem macSeedAndMacDoneResult : Obligations.MacSeedAndMacDoneResult := fun s =>
  ⟨congrArg Flow.finish (macSeedStep_eq Config.chip s), congrArg Flow.finish (macDoneStep_eq s)⟩

/-- Settles O31: the step goes on where its block lies inside AD. -/
theorem macFullResult : Obligations.MacFullResult := fun _ h =>
  congrArg Flow.finish (macFullStep_of_le Config.chip h)

/-- Settles O32: the step goes on in every state, since its bytes end where AD does. -/
theorem macFinalResult : Obligations.MacFinalResult := fun s =>
  congrArg Flow.finish (macFinalStep_eq Config.chip s)

end Sys2Proof.Machine
end

section
/-! PROOFS of the family 43_colm0.md, first part: what each micro-operation of the message does (R141 to R151). Where its
accesses lie inside their spaces a micro-operation is one assignment; the cadence part, common to four of them, is said
once (44_colm127.md R161 to R163). -/

namespace Sys2Proof.Machine

/-! ## Stores and the other spaces -/

theorem HoldsBytes.storeBlock_of_ne {m : Memory} {sp sp' : Space} {a a' n : Nat} {x y : Block}
    (h : HoldsBytes m sp a x n) (hne : sp ≠ sp') (n' : Nat) :
    HoldsBytes (m.storeBlock sp' a' y n') sp a x n := fun j hj => by
  rw [Memory.storeBlock, Memory.readByte_write_of_not (.inl hne), h j hj]

theorem read_storeBlock_of_ne (m : Memory) {sp sp' : Space} (hne : sp ≠ sp') (a a' n n' : Nat) (x : Block) :
    (m.storeBlock sp' a' x n').read sp a n = m.read sp a n :=
  Memory.read_congr fun _ _ _ => Memory.readByte_write_of_not (.inl hne)

/-- Bytes of a space are the first bytes of an image exactly where the block holds. -/
theorem read_eq_take_iff (m : Memory) (sp : Space) (a : Nat) (x : Block) {n : Nat} (hn : n ≤ 16) :
    m.read sp a n = (bytesOfBlock x).take n ↔ HoldsBytes m sp a x n := by
  have hlen : ((bytesOfBlock x).take n).length = n := by simp [bytesOfBlock_length, hn]
  constructor
  · intro h j hj
    have hread := m.getElem_read (sp := sp) (a := a) (n := n) (j := j) (by simpa [Memory.read_length])
    rw [← hread]
    simp [h, bytesOfBlock, imageByte]
  · intro h
    refine List.ext_getElem (by rw [hlen, Memory.read_length]) fun j h1 h2 => ?_
    rw [hlen] at h2
    rw [Memory.getElem_read, h j h2]
    simp [bytesOfBlock, imageByte]

theorem read_eq_bytesOfBlock_iff (m : Memory) (sp : Space) (a : Nat) (x : Block) :
    m.read sp a 16 = bytesOfBlock x ↔ HoldsBytes m sp a x 16 := by
  rw [← read_eq_take_iff m sp a x le_rfl, List.take_of_length_le (bytesOfBlock_length x).le]

/-! ## The cadence part (44_colm127.md R161 to R163) -/

/-- The registers once the tag of a cadence point has passed; `cad` says whether the block is one. -/
def tagPassed (cad : Bool) (w : Work) : Work :=
  { w with
    dc := if cad then dbl w.dc else w.dc
    tagpos := if cad then w.tagpos + 16#64 else w.tagpos }

/-- The memory once the tag of block `i` is produced under the ciphertext offset `dc`, if the block is a cadence point. -/
def tagStored (c : Setup) (i : Len) (dc : Block) (s : State) : Memory :=
  if s.cadence i then s.mem.storeBlock .tagOut s.work.tagpos.toNat (itagValue c dc s) 16 else s.mem

/-- There is room in TAGOUT for the tag of block `i`, if it is a cadence point. -/
def TagRoom (i : Len) (s : State) : Prop :=
  s.cadence i = true → s.work.tagpos.toNat + 16 ≤ s.spaceSize .tagOut

/-- TAGIN holds the tag of block `i` under the ciphertext offset `dc`, if the block is a cadence point. -/
def TagFits (c : Setup) (i : Len) (dc : Block) (s : State) : Prop :=
  s.cadence i = true → s.work.tagpos.toNat + 16 ≤ s.latch.taginlen.toNat ∧
    HoldsBytes s.mem .tagIn s.work.tagpos.toNat (itagValue c dc s) 16

theorem cadenceGen_of_room {c : Setup} {i : Len} {s : State} (h : TagRoom i s) :
    cadenceGen c i s =
      .go { s with work := tagPassed (s.cadence i) s.work, mem := tagStored c i (dbl s.work.dc) s } := by
  unfold cadenceGen tagPassed tagStored
  cases hc : s.cadence i with
  | false => rfl
  | true =>
    rw [if_pos rfl, itagGenStep_of_le (h hc)]
    rfl

theorem itagCompare_of_holds {c : Setup} {dc : Block} {s : State}
    (hlen : s.work.tagpos.toNat + 16 ≤ s.latch.taginlen.toNat)
    (h : HoldsBytes s.mem .tagIn s.work.tagpos.toNat (itagValue c dc s) 16) :
    itagCompare c dc s = .go (advanceTagpos s) := by
  have hlong : ¬ tagStreamTooShort s = true := by simpa [tagStreamTooShort] using hlen
  have hroom : s.work.tagpos.toNat + 16 ≤ s.spaceSize .tagIn := hlen
  rw [itagCompare, if_neg hlong, readBytes_of_le hroom, if_pos ((read_eq_bytesOfBlock_iff ..).mpr h)]

theorem itagCompare_of_not {c : Setup} {dc : Block} {s : State}
    (h : ¬ (s.work.tagpos.toNat + 16 ≤ s.latch.taginlen.toNat ∧
      HoldsBytes s.mem .tagIn s.work.tagpos.toNat (itagValue c dc s) 16)) :
    itagCompare c dc s = .halt .intermediateTagMismatch s := by
  obtain ⟨-, hlong, hread⟩ | heq := itagCompare_cases c dc s
  · have hlen : s.work.tagpos.toNat + 16 ≤ s.latch.taginlen.toNat := by simpa [tagStreamTooShort] using hlong
    exact absurd ⟨hlen, (read_eq_bytesOfBlock_iff ..).mp hread⟩ h
  · exact heq

theorem cadenceChk_of_fits {c : Setup} {i : Len} {s : State} (h : TagFits c i (dbl s.work.dc) s) :
    cadenceChk c i s = .go { s with work := tagPassed (s.cadence i) s.work } := by
  unfold cadenceChk tagPassed
  cases hc : s.cadence i with
  | false => rfl
  | true =>
    obtain ⟨hlen, hholds⟩ := h hc
    exact (if_pos rfl).trans (itagCompare_of_holds (s := extraDouble s) hlen hholds)

theorem cadenceChk_of_not_fits {c : Setup} {i : Len} {s : State} (h : ¬ TagFits c i (dbl s.work.dc) s) :
    cadenceChk c i s = .halt .intermediateTagMismatch (extraDouble s) := by
  obtain ⟨hc, hwrong⟩ := Classical.not_imp.mp h
  rw [cadenceChk, if_pos hc]
  exact itagCompare_of_not (s := extraDouble s) hwrong

section TagStored

variable (c : Setup) (i : Len) (dc : Block) (s : State)

/-- A tag goes to TAGOUT, so the other spaces read as before. -/
theorem tagStored_read {sp : Space} (hsp : sp ≠ .tagOut) (a n : Nat) :
    (tagStored c i dc s).read sp a n = s.mem.read sp a n := by
  unfold tagStored
  split_ifs
  · exact read_storeBlock_of_ne _ hsp ..
  · rfl

theorem tagStored_loadBlock (a : Nat) : (tagStored c i dc s).loadBlock .input a = s.mem.loadBlock .input a := by
  rw [Memory.loadBlock, tagStored_read c i dc s Space.noConfusion, Memory.loadBlock]

variable {i s} in
/-- The tag stands in TAGOUT also after the block is stored in OUT. -/
theorem tagStored_holds (hc : s.cadence i = true) (a n : Nat) (x : Block) :
    HoldsBytes ((tagStored c i dc s).storeBlock .out a x n) .tagOut s.work.tagpos.toNat (itagValue c dc s) 16 := by
  rw [tagStored, if_pos hc]
  exact (HoldsBytes_storeBlock _ _ _ _ _ le_rfl).storeBlock_of_ne Space.noConfusion n

/-- The tag, then a block in OUT: no other byte changes. -/
theorem tagStored_sameOutsideBoth (a : Nat) (x : Block) :
    SameOutsideBoth s.mem ((tagStored c i dc s).storeBlock .out a x 16) a (a + 16) s.work.tagpos.toNat
      (if s.cadence i then s.work.tagpos.toNat + 16 else s.work.tagpos.toNat) := by
  intro sp b hout htag
  have houtside : sp ≠ .out ∨ b < a ∨ a + 16 ≤ b := or_iff_not_imp_left.mpr fun hsp => hout (not_not.mp hsp)
  rw [SameOutside_storeBlock _ _ _ _ _ le_rfl sp b houtside, tagStored]
  split_ifs at htag ⊢
  · exact SameOutside_storeBlock _ _ _ _ _ le_rfl sp b (or_iff_not_imp_left.mpr fun hsp => htag (not_not.mp hsp))
  · rfl

end TagStored

/-! ## The non-final blocks (R141, R148) -/

theorem advanceMsg_eq (n : Len) {s t : State} (hl : t.latch = s.latch) :
    advanceMsg n t = { t with
      work := { t.work with idx := t.work.idx + n }
      phase := if (t.work.idx + n).toNat ≤ s.nnf then .msg else .finOfs } := by
  rw [advanceMsg, State.nnf_congr hl]

/-- What BLK.ENC leaves: the cadence part, EncBlock, the store, the checksum, the next block. -/
def blkEncEnd (c : Setup) (s : State) : State :=
  let a := blockAddr s.work.idx
  let cad := s.cadence s.work.idx
  let E := c.bcEnc s.work.rke
  let dm := dbl s.work.dm
  let dc := if cad then dbl (dbl s.work.dc) else dbl s.work.dc
  let p := s.mem.loadBlock .input a
  let r := rho (E (p ^^^ dm)) s.work.w
  let idx := s.work.idx + 1#64
  { s with
    work := { s.work with
      dm := dm
      dc := dc
      w := r.2
      cs := s.work.cs ^^^ p
      idx := idx
      tagpos := if cad then s.work.tagpos + 16#64 else s.work.tagpos }
    mem := (tagStored c s.work.idx (dbl (dbl s.work.dc)) s).storeBlock .out a (E r.1 ^^^ dc) 16
    phase := if idx.toNat ≤ s.nnf then .msg else .finOfs }

theorem blkEncStep_of_le (c : Setup) {s : State} (hin : blockAddr s.work.idx + 16 ≤ s.spaceSize .input)
    (hout : blockAddr s.work.idx + 16 ≤ s.spaceSize .out) (htag : TagRoom s.work.idx s) :
    blkEncStep c s = .go (blkEncEnd c s) := by
  have hgen : cadenceGen c s.work.idx (offsets dbl s) = .go { s with
      work := tagPassed (s.cadence s.work.idx) { s.work with dm := dbl s.work.dm, dc := dbl s.work.dc }
      mem := tagStored c s.work.idx (dbl (dbl s.work.dc)) s } := cadenceGen_of_room (s := offsets dbl s) htag
  have hload := tagStored_loadBlock c s.work.idx (dbl (dbl s.work.dc)) s (blockAddr s.work.idx)
  rw [blkEncStep, hgen, Flow.andThen_go, loadBlock_of_le (by exact hin)]
  dsimp only [encBlock, encipher, tagPassed]
  rw [storeBlock_of_le (by exact hout), Flow.andThen_go, hload]
  dsimp only [accumulate]
  exact congrArg Flow.go (advanceMsg_eq (s := s) 1#64 (by rfl))

/-- What BLK.DEC leaves where the tag passes. -/
def blkDecEnd (c : Setup) (s : State) : State :=
  let a := blockAddr s.work.idx
  let cad := s.cadence s.work.idx
  let D := c.bcDec s.work.rkd
  let dm := dbl s.work.dm
  let dc := if cad then dbl (dbl s.work.dc) else dbl s.work.dc
  let r := rhoInv (D (s.mem.loadBlock .input a ^^^ dc)) s.work.w
  let p := D r.1 ^^^ dm
  let idx := s.work.idx + 1#64
  { s with
    work := { s.work with
      dm := dm
      dc := dc
      w := r.2
      cs := s.work.cs ^^^ p
      idx := idx
      tagpos := if cad then s.work.tagpos + 16#64 else s.work.tagpos }
    mem := s.mem.storeBlock .out a p 16
    phase := if idx.toNat ≤ s.nnf then .msg else .finOfs }

theorem blkDecStep_of_le (c : Setup) {s : State} (hin : blockAddr s.work.idx + 16 ≤ s.spaceSize .input)
    (hout : blockAddr s.work.idx + 16 ≤ s.spaceSize .out) (htag : TagFits c s.work.idx (dbl (dbl s.work.dc)) s) :
    blkDecStep c s = .go (blkDecEnd c s) := by
  have hchk : cadenceChk c s.work.idx (offsets dbl s) = .go { s with
      work := tagPassed (s.cadence s.work.idx) { s.work with dm := dbl s.work.dm, dc := dbl s.work.dc } } :=
    cadenceChk_of_fits (s := offsets dbl s) htag
  rw [blkDecStep, hchk, Flow.andThen_go, loadBlock_of_le (by exact hin)]
  dsimp only [decBlock, decipher, tagPassed]
  rw [storeBlock_of_le (by exact hout), Flow.andThen_go]
  dsimp only [accumulate]
  exact congrArg Flow.go (advanceMsg_eq (s := s) 1#64 (by rfl))

theorem blkDecStep_of_not_fits (c : Setup) {s : State} (htag : ¬ TagFits c s.work.idx (dbl (dbl s.work.dc)) s) :
    blkDecStep c s = .halt .intermediateTagMismatch (extraDouble (offsets dbl s)) := by
  rw [blkDecStep, cadenceChk_of_not_fits (s := offsets dbl s) htag, Flow.andThen_halt]

/-- Settles O34: the step's one assignment, and where its two stores lie. -/
theorem blkEncResult : Obligations.BlkEncResult := by
  intro s a tp cad hin hout htag E dm dc p r idx
  have hstep : blkEncStep Config.chip s = .go (blkEncEnd Config.chip s) := blkEncStep_of_le _ hin hout htag
  have hitag (hcad : cad = true) : HoldsBytes (blkEncEnd Config.chip s).mem .tagOut tp (E s.work.w ^^^ dc) 16 := by
    have hdc : dc = dbl (dbl s.work.dc) := if_pos hcad
    rw [hdc]
    exact tagStored_holds _ _ hcad _ _ _
  exact ⟨blkEncEnd Config.chip s, congrArg Flow.finish hstep, (blkEncStep_sameControl _ s).of_eq_go hstep, rfl, rfl,
    HoldsBytes_storeBlock _ _ _ _ _ le_rfl, hitag, tagStored_sameOutsideBoth _ _ _ _ _ _⟩

/-- Settles O35: at a cadence point the tag the step checks is the one TAGIN is said to hold. -/
theorem blkDecResult : Obligations.BlkDecResult := by
  intro s a tp cad E D dm dc hin hout htag r p idx
  have hfits : TagFits Config.chip s.work.idx (dbl (dbl s.work.dc)) s := fun hcad => by
    have hdc : dc = dbl (dbl s.work.dc) := if_pos hcad
    exact hdc ▸ htag hcad
  have hstep : blkDecStep Config.chip s = .go (blkDecEnd Config.chip s) := blkDecStep_of_le _ hin hout hfits
  exact ⟨blkDecEnd Config.chip s, congrArg Flow.finish hstep, (blkDecStep_sameControl _ s).of_eq_go hstep, rfl, rfl,
    HoldsBytes_storeBlock _ _ _ _ _ le_rfl, SameOutside_storeBlock _ _ _ _ _ le_rfl⟩

/-! ## The offsets of the final stage (R142) -/

theorem finOfsStep_eq (s : State) :
    finOfsStep s = .go { s with
      work := { s.work with
        dm := if s.mlen % 16 = 0 then sep s.work.dm else sep (sep s.work.dm)
        dc := if s.mlen % 16 = 0 then sep s.work.dc else sep (sep s.work.dc) }
      phase := if s.nblk = 0 then .tag else .final } := by
  have hphase : (if 0 < s.nblk then Phase.final else .tag) = if s.nblk = 0 then .tag else .final := by
    simp only [Nat.pos_iff_ne_zero, ne_eq, ite_not]
  by_cases hr : s.mlen % 16 = 0
  · have hpos : ¬ 0 < s.rlen := by rw [State.rlen]; omega
    rw [finOfsStep, hphase, if_neg hpos, if_pos hr, if_pos hr]
    rfl
  · have hpos : 0 < s.rlen := by rw [State.rlen]; omega
    rw [finOfsStep, hphase, if_pos hpos, if_neg hr, if_neg hr]
    rfl

/-- Settles O37: the step is one assignment in every state. -/
theorem finOfsResult : Obligations.FinOfsResult := fun s => congrArg Flow.finish (finOfsStep_eq s)

/-! ## The final block (R143, R149) -/

/-- The final plaintext block that FIN.ENC loads, whole or padded. -/
def finalPlain (s : State) : Block :=
  if s.rlen = 0 then s.mem.loadBlock .input (16 * s.nnf) else s.mem.loadPartial .input (16 * s.nnf) s.rlen

/-- What FIN.ENC leaves. -/
def finEncEnd (c : Setup) (s : State) : State :=
  let cad := s.cadence s.work.idx
  let E := c.bcEnc s.work.rke
  let dc := if cad then dbl s.work.dc else s.work.dc
  let r := rho (E (finalPlain s ^^^ s.work.dm)) s.work.w
  { s with
    work := { s.work with
      dc := dc
      w := r.2
      cs := s.work.cs ^^^ finalPlain s
      idx := s.work.idx + 1#64
      tagpos := if cad then s.work.tagpos + 16#64 else s.work.tagpos }
    mem := (tagStored c s.work.idx (dbl s.work.dc) s).storeBlock .out (16 * s.nnf) (E r.1 ^^^ dc) 16
    phase := .tag }

/-- An update of the registers and the memory keeps the geometry of the final block. -/
theorem State.nnf_update (s : State) (w : Work) (m : Memory) : ({ s with work := w, mem := m } : State).nnf = s.nnf :=
  State.nnf_congr rfl

/-- The final block is the same in every state of the command with the same IN. -/
theorem loadFinal_of_inputs {s t : State} {k : Block → Flow} (hl : t.latch = s.latch)
    (hmem : ∀ a n, t.mem.read .input a n = s.mem.read .input a n)
    (hin : 16 * s.nnf + (if s.rlen = 0 then 16 else s.rlen) ≤ s.spaceSize .input) :
    loadFinal t k = k (finalPlain s) := by
  rw [loadFinal_of_le (by rwa [State.nnf_congr hl, State.rlen_congr hl, State.spaceSize_congr hl])]
  simp only [Memory.loadBlock, Memory.loadPartial, hmem, State.nnf_congr hl, State.rlen_congr hl, finalPlain]

theorem finEncStep_of_le (c : Setup) {s : State}
    (hin : 16 * s.nnf + (if s.rlen = 0 then 16 else s.rlen) ≤ s.spaceSize .input)
    (hout : 16 * s.nnf + 16 ≤ s.spaceSize .out) (htag : TagRoom s.work.idx s) :
    finEncStep c s = .go (finEncEnd c s) := by
  have hmem := tagStored_read c s.work.idx (dbl s.work.dc) s (sp := .input) Space.noConfusion
  rw [finEncStep, cadenceGen_of_room htag, Flow.andThen_go, loadFinal_of_inputs (s := s) (by rfl) hmem hin]
  dsimp only [encBlock, encipher, tagPassed]
  rw [State.nnf_update, storeBlock_of_le (by exact hout), Flow.andThen_go]
  rfl

/-- What FIN.DEC leaves where the tag passes. -/
def finDecEnd (c : Setup) (s : State) : State :=
  let cad := s.cadence s.work.idx
  let D := c.bcDec s.work.rkd
  let dc := if cad then dbl s.work.dc else s.work.dc
  let r := rhoInv (D (s.mem.loadBlock .input (16 * s.nnf) ^^^ dc)) s.work.w
  let p := D r.1 ^^^ s.work.dm
  { s with
    work := { s.work with
      dc := dc
      w := r.2
      cs := s.work.cs ^^^ p
      pf := p
      idx := s.work.idx + 1#64
      tagpos := if cad then s.work.tagpos + 16#64 else s.work.tagpos }
    mem := s.mem.storeBlock .out (16 * s.nnf) p s.tlen
    phase := .tag }

theorem finDecStep_of_le (c : Setup) {s : State} (hin : 16 * s.nnf + 16 ≤ s.spaceSize .input)
    (hout : 16 * s.nnf + s.tlen ≤ s.spaceSize .out) (htag : TagFits c s.work.idx (dbl s.work.dc) s) :
    finDecStep c s = .go (finDecEnd c s) := by
  rw [finDecStep, cadenceChk_of_fits htag, Flow.andThen_go]
  dsimp only
  rw [State.nnf_update, loadBlock_of_le (by exact hin)]
  dsimp only [decBlock, decipher, tagPassed, accumulate]
  rw [State.nnf_update, storePartial_of_le (by exact hout), Flow.andThen_go]
  rfl

theorem finDecStep_of_not_fits (c : Setup) {s : State} (htag : ¬ TagFits c s.work.idx (dbl s.work.dc) s) :
    finDecStep c s = .halt .intermediateTagMismatch (extraDouble s) := by
  rw [finDecStep, cadenceChk_of_not_fits htag, Flow.andThen_halt]

theorem State.tlen_le (s : State) : s.tlen ≤ 16 := by
  rw [State.tlen_eq]
  split_ifs <;> omega

/-- Settles O38: the step's one assignment, and where its two stores lie. -/
theorem finEncResult : Obligations.FinEncResult := by
  intro s a tp cad hin hout htag E dc p r
  have hstep : finEncStep Config.chip s = .go (finEncEnd Config.chip s) := finEncStep_of_le _ hin hout htag
  have hitag (hcad : cad = true) : HoldsBytes (finEncEnd Config.chip s).mem .tagOut tp (E s.work.w ^^^ dc) 16 := by
    have hdc : dc = dbl s.work.dc := if_pos hcad
    rw [hdc]
    exact tagStored_holds _ _ hcad _ _ _
  exact ⟨finEncEnd Config.chip s, congrArg Flow.finish hstep, (finEncStep_sameControl _ s).of_eq_go hstep, rfl, rfl,
    HoldsBytes_storeBlock _ _ _ _ _ le_rfl, hitag, tagStored_sameOutsideBoth _ _ _ _ _ _⟩

/-- Settles O39: at a cadence point the tag the step checks is the one TAGIN is said to hold. -/
theorem finDecResult : Obligations.FinDecResult := by
  intro s a n tp cad E D dc hin hout htag r p
  have hfits : TagFits Config.chip s.work.idx (dbl s.work.dc) s := fun hcad => by
    have hdc : dc = dbl s.work.dc := if_pos hcad
    exact hdc ▸ htag hcad
  have hstep : finDecStep Config.chip s = .go (finDecEnd Config.chip s) := finDecStep_of_le _ hin hout hfits
  exact ⟨finDecEnd Config.chip s, congrArg Flow.finish hstep, (finDecStep_sameControl _ s).of_eq_go hstep, rfl, rfl,
    HoldsBytes_storeBlock _ _ _ _ _ s.tlen_le, SameOutside_storeBlock _ _ _ _ _ s.tlen_le⟩

/-! ## The tag (R146, R150) -/

/-- `T`, and what TAG.GEN makes of the registers. -/
def tagWork (c : Setup) (s : State) : Work :=
  let E := c.bcEnc s.work.rke
  let dm := dbl s.work.dm
  let dc := dbl s.work.dc
  let r := rho (E (s.work.cs ^^^ dm)) s.work.w
  { s.work with dm := dm, dc := dc, w := r.2, t := E r.1 ^^^ dc }

theorem tagGenStep_decrypt (c : Setup) {s : State} (hd : s.dec = true) :
    tagGenStep c s = .go { s with work := tagWork c s, phase := .tagChk } :=
  if_pos hd

theorem tagGenStep_encrypt (c : Setup) {s : State} (hd : s.dec = false)
    (hout : 16 * s.nblk + s.tlen ≤ s.spaceSize .out) :
    tagGenStep c s = .halt .success { s with
      work := tagWork c s
      mem := s.mem.storeBlock .out (16 * s.nblk) (tagWork c s).t s.tlen } := by
  have hdec : ¬ s.dec = true := by simp [hd]
  refine (if_neg hdec).trans ?_
  rw [storePartial_of_le (by exact hout), Flow.andThen_go]
  rfl

/-! ### What HALT reports (46_commands_sequencer.md R212) -/

theorem State.mlen_encrypt {s : State} (hd : s.dec = false) : s.mlen = s.latch.inlen.toNat := by
  simp [State.mlen, hd]

theorem State.mlen_decrypt {s : State} (hd : s.dec = true) (hlen : 16 ≤ s.latch.inlen.toNat) :
    s.mlen = s.latch.inlen.toNat - 16 := by
  simp [State.mlen, hd, hlen]

theorem haltOutlen_congr {s u : State} (hl : u.latch = s.latch) (st : Status) : haltOutlen st u = haltOutlen st s := by
  rw [haltOutlen, haltOutlen, State.dec_congr hl, State.mlen_congr hl]

theorem haltTagoutlen_congr {s u : State} (hl : u.latch = s.latch) (st : Status) :
    haltTagoutlen st u = haltTagoutlen st s := by
  rw [haltTagoutlen, haltTagoutlen, State.dec_congr hl, State.periodic_congr hl, State.ntag_congr hl]

/-- HALT in a state that differs in the working registers and the phase leaves what it would leave of `s`. -/
theorem haltWith_halted_of_sameControl {s u : State} (h : SameControl s u) (hm : u.mem = s.mem) (st : Status) :
    HaltedWith st s (haltWith st u) where
  status := rfl
  outlen := haltOutlen_congr h.latch st
  tagoutlen := haltTagoutlen_congr h.latch st
  reported := by
    rw [haltWith_reported, haltOutlen_congr h.latch, haltTagoutlen_congr h.latch]
  busy := rfl
  done := rfl
  phase := rfl
  host := h.host
  latch := h.latch
  ports := h.ports
  inbox := h.inbox
  issueWord := h.issueWord
  readout := h.readout
  inputs := hm ▸ (haltWith_halted st u).inputs
  results := hm ▸ (haltWith_halted st u).results
  tags := hm ▸ (haltWith_halted st u).tags

theorem haltOutlen_encrypt {s : State} (hd : s.dec = false) (hlen : s.latch.inlen.toNat ≤ 2 ^ 64 - 17) :
    (haltOutlen .success s).toNat = s.mlen + 16 := by
  have hmlen := State.mlen_encrypt hd
  simp only [haltOutlen, hd, if_true, Bool.false_eq_true, if_false, BitVec.toNat_ofNat]
  omega

theorem haltOutlen_decrypt {s : State} (hd : s.dec = true) : (haltOutlen .success s).toNat = s.mlen := by
  have hmlen := s.mlen_lt
  simp only [haltOutlen, hd, if_true, BitVec.toNat_ofNat]
  omega

/-- The bytes a store leaves listed. -/
theorem cellAt_storeBlock (m : Memory) (sp : Space) (a : Nat) (x : Block) {n j : Nat} (hn : n ≤ 16) (hj : j < n) :
    cellAt ((m.storeBlock sp a x n).buf sp).cells (a + j) = some (imageByte x j) := by
  have hlen : ((bytesOfBlock x).take n).length = n := by simp [bytesOfBlock_length, hn]
  rw [Memory.storeBlock, cellAt_write, dif_pos ⟨by omega, by omega⟩]
  simp [bytesOfBlock, imageByte]

/-- Settles O42: HALT keeps the tag's bytes, since they lie below the length it reports. -/
theorem tagGenResult : Obligations.TagGenResult := by
  intro s E dm dc r tag
  refine ⟨fun hd => congrArg Flow.finish (tagGenStep_decrypt Config.chip hd), fun hd hlen => ?_⟩
  have hmlen : s.mlen = s.latch.inlen.toNat := State.mlen_encrypt hd
  have hroom : 16 * s.nblk + s.tlen ≤ s.spaceSize .out := by
    simp only [s.tag_end, State.spaceSize, hd, Bool.false_eq_true, if_false]
    omega
  have hhalt := haltWith_halted_of_sameControl (s := { s with mem := s.mem.storeBlock .out (16 * s.nblk) tag s.tlen })
    ((SameControl.refl _).update (tagWork Config.chip s) _ s.phase) rfl .success
  have houtlen := haltOutlen_encrypt hd hlen
  refine ⟨_, congrArg Flow.finish (tagGenStep_encrypt Config.chip hd hroom), hhalt, fun j hj => ?_,
    houtlen.trans s.tag_end.symm, houtlen.trans (by rw [hmlen])⟩
  refine hhalt.results _ _ ?_ (cellAt_storeBlock s.mem .out (16 * s.nblk) tag s.tlen_le hj)
  exact Nat.lt_of_lt_of_eq (show 16 * s.nblk + j < 16 * s.nblk + s.tlen by omega) (s.tag_end.trans houtlen.symm)

theorem tagMatches_read_iff (s : State) (a : Nat) :
    tagMatches s (s.mem.read .input a s.tlen) = true ↔ HoldsBytes s.mem .input a s.work.t s.tlen := by
  rw [tagMatches, beq_iff_eq, read_eq_take_iff _ _ _ _ s.tlen_le]

/-- R150 inside IN. -/
theorem tagChkStep_of_le {s : State} (hin : 16 * s.nblk + s.tlen ≤ s.spaceSize .input) :
    tagChkStep s =
      if tagMatches s (s.mem.read .input (16 * s.nblk) s.tlen) then
        if 0 < s.rlen then goTo .padChk s else .halt .success s
      else .halt .tagMismatch s := readBytes_of_le hin

/-- Settles O43: the comparison decides between the three outcomes. -/
theorem tagChkResult : Obligations.TagChkResult := by
  intro s hd hlen equal
  have hroom : 16 * s.nblk + s.tlen ≤ s.spaceSize .input := by
    have hsize : s.spaceSize .input = s.latch.inlen.toNat := rfl
    rw [s.tag_end, hsize, State.mlen_decrypt hd hlen]
    omega
  have hiff := tagMatches_read_iff s (16 * s.nblk)
  have hexec : exec .tagChk s = (tagChkStep s).finish := rfl
  rw [hexec, tagChkStep_of_le hroom]
  refine ⟨fun heq hr => ?_, fun heq hr => ?_, fun hne => ?_⟩
  · rw [if_pos (hiff.mpr heq), if_pos hr]
    rfl
  · rw [if_pos (hiff.mpr heq), if_neg (by omega)]
    exact ⟨_, rfl, haltWith_halted _ _⟩
  · rw [if_neg (mt hiff.mp hne)]
    exact ⟨_, rfl, haltWith_halted _ _, haltOutlen_failure (st := .tagMismatch) s (by decide)⟩

/-! ## The padding (R151) -/

/-- The bytes after the marker are not all zero. -/
theorem any_drop_bytesOfBlock_iff (x : Block) (r : Nat) :
    ((bytesOfBlock x).drop (r + 1)).any (· != 0x00#8) = true ↔ ¬ ∀ j, r < j → j ≤ 15 → imageByte x j = 0x00#8 := by
  simp only [List.any_eq_true, bne_iff_ne, List.mem_drop_iff_getElem, bytesOfBlock_length, not_forall]
  constructor
  · rintro ⟨b, ⟨i, hi, rfl⟩, hb⟩
    exact ⟨r + 1 + i, by omega, by omega, by simpa [bytesOfBlock, imageByte] using hb⟩
  · rintro ⟨j, hlo, hhi, hb⟩
    refine ⟨_, ⟨j - (r + 1), by omega, rfl⟩, ?_⟩
    have hj : r + 1 + (j - (r + 1)) = j := by omega
    simpa [bytesOfBlock, imageByte, hj] using hb

theorem State.rlen_lt (s : State) : s.rlen < 16 := Nat.mod_lt _ (by decide)

/-- Settles O44: the marker and the tail are read off the image of `PF`, in this order. -/
theorem padChkResult : Obligations.PadChkResult := by
  intro s marker tail halts
  have hmarker : (bytesOfBlock s.work.pf)[s.rlen]? = some (imageByte s.work.pf s.rlen) :=
    bytesOfBlock_getElem? _ _ s.rlen_lt
  have htail := any_drop_bytesOfBlock_iff s.work.pf s.rlen
  have hhalts (st : Status) (h : paddingStatus s = st) : halts st :=
    ⟨_, congrArg (fun st => Flow.finish (.halt st s)) h, haltWith_halted st s⟩
  refine ⟨fun hm ht => hhalts _ ?_, fun hm => hhalts _ ?_, fun hm ht => hhalts _ ?_⟩
  · have hm' : imageByte s.work.pf s.rlen = 0x80#8 := hm
    rw [paddingStatus, if_neg (by simp [hmarker, hm']), if_neg (fun h => htail.mp h ht)]
  · have hm' : imageByte s.work.pf s.rlen ≠ 0x80#8 := hm
    rw [paddingStatus, if_pos (by simp [hmarker, hm'])]
  · have hm' : imageByte s.work.pf s.rlen = 0x80#8 := hm
    rw [paddingStatus, if_neg (by simp [hmarker, hm']), if_pos (htail.mpr ht)]

end Sys2Proof.Machine
end

section
/-! PROOFS of the family 43_colm0.md, second part: the two whole functions (R147, R152) and that decryption undoes
encryption (R153). Each function is a message part and the tag behind it; the message part is undone block by block. -/

namespace Sys2Proof.Machine

/-! ## Blocks and byte strings -/

theorem blockOfBytes_bytesOfBlock (x : Block) : blockOfBytes (bytesOfBlock x) = x :=
  block_eq_of_imageByte fun j hj => by
    rw [imageByte_blockOfBytes (bytesOfBlock_length x) hj]
    simp [bytesOfBlock, imageByte]

theorem bytesOfBlock_blockOfBytes {bs : List Byte} (h : bs.length = 16) : bytesOfBlock (blockOfBytes bs) = bs := by
  refine List.ext_getElem ((bytesOfBlock_length _).trans h.symm) fun j hj _ => ?_
  rw [bytesOfBlock_length] at hj
  rw [← imageByte_blockOfBytes h hj]
  simp [bytesOfBlock, imageByte]

theorem wholeBlocks_zero (bs : List Byte) : wholeBlocks bs 0 = [] := rfl

theorem wholeBlocks_succ (bs : List Byte) (n : Nat) :
    wholeBlocks bs (n + 1) = blockOfBytes (bs.take 16) :: wholeBlocks (bs.drop 16) n := by
  simp only [wholeBlocks, List.range_succ_eq_map, List.map_cons, List.map_map, Nat.mul_zero, List.drop_zero]
  refine congrArg _ (List.map_congr_left fun i _ => ?_)
  rw [Function.comp_apply, List.drop_drop, show 16 * i.succ = 16 + 16 * i by omega]

theorem wholeBlocks_length (bs : List Byte) (n : Nat) : (wholeBlocks bs n).length = n := by simp [wholeBlocks]

/-- Splitting off a first block. -/
theorem wholeBlocks_append {bs : List Byte} (h : bs.length = 16) (more : List Byte) (n : Nat) :
    wholeBlocks (bs ++ more) (n + 1) = blockOfBytes bs :: wholeBlocks more n := by
  rw [wholeBlocks_succ, List.take_left' h, List.drop_left' h]

theorem flatMap_wholeBlocks {bs : List Byte} {n : Nat} (h : 16 * n ≤ bs.length) :
    (wholeBlocks bs n).flatMap bytesOfBlock = bs.take (16 * n) := by
  induction n generalizing bs with
  | zero => simp [wholeBlocks_zero]
  | succ n ih =>
    have hrest : 16 * n ≤ (bs.drop 16).length := by rw [List.length_drop]; omega
    rw [wholeBlocks_succ, List.flatMap_cons, ih hrest, bytesOfBlock_blockOfBytes (by rw [List.length_take]; omega),
      show 16 * (n + 1) = 16 + 16 * n by omega, List.take_add]

/-! ## The intermediate tags passed (44_colm127.md R160, R164) -/

/-- The bytes of the intermediate tags of the blocks before block `i`. -/
def tagBytesUpTo (periodic : Bool) (i : Nat) : Nat := if periodic then 16 * ((i - 1) / 127) else 0

theorem State.tagBytesBefore_eq (s : State) (i : Nat) : s.tagBytesBefore i = tagBytesUpTo s.periodic i := rfl

theorem Chain.itag_length (c : Setup) (rke : Sched) (ch : Chain) (periodic : Bool) {i : Nat} (hi : 1 ≤ i) :
    tagBytesUpTo periodic i + (ch.itag c rke periodic i).length = tagBytesUpTo periodic (i + 1) := by
  unfold tagBytesUpTo Chain.itag
  cases periodic with
  | false => rfl
  | true =>
    by_cases hmod : i % 127 = 0
    · simp only [hmod, beq_self_eq_true, Bool.and_true, if_true, bytesOfBlock_length]
      omega
    · simp [hmod]
      omega

section Blocks

variable (c : Setup) (rke rkd : Sched) (periodic : Bool)

theorem Chain.encryptAt_out_length (ch : Chain) (i : Nat) (p : Block) :
    (ch.encryptAt c rke periodic i p).out.length = 16 := bytesOfBlock_length _

theorem Chain.encryptAt_tags_length (ch : Chain) {i : Nat} (hi : 1 ≤ i) (p : Block) :
    tagBytesUpTo periodic i + (ch.encryptAt c rke periodic i p).tags.length = tagBytesUpTo periodic (i + 1) :=
  Chain.itag_length c rke _ periodic hi

/-- A first block in front of the others. -/
theorem encryptBlocks_cons (i : Nat) (ch : Chain) (p : Block) (ps : List Block) :
    encryptBlocks c rke periodic i ch (p :: ps) =
      let a := (ch.offsets dbl).encryptAt c rke periodic i p
      let b := encryptBlocks c rke periodic (i + 1) a.chain ps
      ⟨a.out ++ b.out, a.tags ++ b.tags, b.chain⟩ := rfl

variable {rke rkd periodic} in
theorem decryptBlocks_cons_of_some {i : Nat} {ch : Chain} {tags : List Byte} {x : Block} {r : Block × List Byte × Chain}
    (h : (ch.offsets dbl).decryptAt c rke rkd periodic i tags x = some r) (xs : List Block) :
    decryptBlocks c rke rkd periodic i ch tags (x :: xs) =
      (decryptBlocks c rke rkd periodic (i + 1) r.2.2 r.2.1 xs).map
        fun b => ⟨bytesOfBlock r.1 ++ b.out, b.tags, b.chain⟩ := by
  rw [decryptBlocks, h]
  dsimp only
  cases decryptBlocks c rke rkd periodic (i + 1) r.2.2 r.2.1 xs <;> rfl

variable {rke rkd periodic} in
theorem decryptBlocks_cons_of_none {i : Nat} {ch : Chain} {tags : List Byte} {x : Block}
    (h : (ch.offsets dbl).decryptAt c rke rkd periodic i tags x = none) (xs : List Block) :
    decryptBlocks c rke rkd periodic i ch tags (x :: xs) = none := by
  rw [decryptBlocks, h]

theorem encryptBlocks_tags_length {i : Nat} (ch : Chain) (ps : List Block) (hi : 1 ≤ i) :
    tagBytesUpTo periodic i + (encryptBlocks c rke periodic i ch ps).tags.length =
      tagBytesUpTo periodic (i + ps.length) := by
  induction ps generalizing i ch with
  | nil => rfl
  | cons p ps ih =>
    rw [encryptBlocks_cons, List.length_append, ← Nat.add_assoc, Chain.encryptAt_tags_length c rke periodic _ hi,
      ih _ (by omega), List.length_cons, Nat.add_right_comm, Nat.add_assoc]

theorem encryptBlocks_out_length (i : Nat) (ch : Chain) (ps : List Block) :
    (encryptBlocks c rke periodic i ch ps).out.length = 16 * ps.length := by
  induction ps generalizing i ch with
  | nil => rfl
  | cons p ps ih =>
    rw [encryptBlocks_cons, List.length_append, Chain.encryptAt_out_length, ih, List.length_cons]
    omega

end Blocks

/-! ## The two functions, message part first -/

/-- The message part of the encryption: the non-final blocks, the offsets of the final stage, the final block. -/
def encryptMessage (c : Setup) (rke : Sched) (periodic : Bool) (ch : Chain) (msg : List Byte) : ChainOut :=
  let nblk := (msg.length + 15) / 16
  let nnf := nblk - 1
  let a := encryptBlocks c rke periodic 1 ch (wholeBlocks msg nnf)
  let ch1 := a.chain.final (msg.length % 16)
  if nblk = 0 then ⟨a.out, a.tags, ch1⟩
  else
    let b := ch1.encryptAt c rke periodic nblk (finalBlock (msg.drop (16 * nnf)))
    ⟨a.out ++ b.out, a.tags ++ b.tags, b.chain⟩

/-- The message part of the decryption of `mlen` bytes, and the bytes of the recovered final block. -/
def decryptMessage (c : Setup) (rke rkd : Sched) (periodic : Bool) (ch : Chain) (mlen : Nat) (tags ct : List Byte) :
    Option (ChainOut × List Byte) :=
  let nblk := (mlen + 15) / 16
  let nnf := nblk - 1
  match decryptBlocks c rke rkd periodic 1 ch tags (wholeBlocks ct nnf) with
  | none => none
  | some a =>
    let ch1 := a.chain.final (mlen % 16)
    if nblk = 0 then some (⟨a.out, a.tags, ch1⟩, [])
    else
      match ch1.decryptAt c rke rkd periodic nblk a.tags (blockOfBytes ((ct.drop (16 * nnf)).take 16)) with
      | none => none
      | some r =>
        let pf := bytesOfBlock r.1
        some (⟨a.out ++ pf.take (tagBytes mlen), r.2.1, r.2.2⟩, pf)

theorem colmEnc_eq (c : Setup) (periodic : Bool) (key nonce ad msg : List Byte) :
    colmEnc c periodic key nonce ad msg =
      let rke := c.ksEnc (blockOfBytes key)
      let m := encryptMessage c rke periodic (startChain c periodic rke nonce ad) msg
      (m.out ++ (bytesOfBlock (m.chain.tagBlock c rke)).take (tagBytes msg.length), m.tags) := by
  simp only [colmEnc, encryptMessage]
  split_ifs <;> simp

theorem colmDec_eq (c : Setup) (periodic : Bool) (key nonce ad ct tags : List Byte) (hlen : 16 ≤ ct.length) :
    colmDec c periodic key nonce ad ct tags =
      let rke := c.ksEnc (blockOfBytes key)
      let mlen := ct.length - 16
      let received := (ct.drop (16 * ((mlen + 15) / 16))).take (tagBytes mlen)
      match decryptMessage c rke (c.ksDec rke) periodic (startChain c periodic rke nonce ad) mlen tags ct with
      | none => (.intermediateTagMismatch, [])
      | some (m, pf) => releaseOn (decryptVerdict c rke m.chain mlen received pf) m.out := by
  have hshort : ¬ ct.length < 16 := by omega
  simp only [colmDec, decryptMessage, if_neg hshort]
  cases decryptBlocks c (c.ksEnc (blockOfBytes key)) (c.ksDec (c.ksEnc (blockOfBytes key))) periodic 1
      (startChain c periodic (c.ksEnc (blockOfBytes key)) nonce ad) tags
      (wholeBlocks ct ((ct.length - 16 + 15) / 16 - 1)) with
  | none => rfl
  | some a =>
    dsimp only
    split_ifs
    · rfl
    · cases (a.chain.final ((ct.length - 16) % 16)).decryptAt c (c.ksEnc (blockOfBytes key))
        (c.ksDec (c.ksEnc (blockOfBytes key))) periodic ((ct.length - 16 + 15) / 16) a.tags
        (blockOfBytes ((ct.drop (16 * ((ct.length - 16 + 15) / 16 - 1))).take 16)) <;> rfl

section DecryptMessage

variable {c : Setup} {rke rkd : Sched} {periodic : Bool} {ch : Chain} {mlen : Nat} {tags ct : List Byte}

/-- The final block, once the non-final ones are recovered. -/
theorem decryptMessage_of_blocks_some {a : ChainOut}
    (h : decryptBlocks c rke rkd periodic 1 ch tags (wholeBlocks ct ((mlen + 15) / 16 - 1)) = some a)
    (hpos : 0 < mlen) :
    decryptMessage c rke rkd periodic ch mlen tags ct =
      ((a.chain.final (mlen % 16)).decryptAt c rke rkd periodic ((mlen + 15) / 16) a.tags
        (blockOfBytes ((ct.drop (16 * ((mlen + 15) / 16 - 1))).take 16))).map
        fun r => (⟨a.out ++ (bytesOfBlock r.1).take (tagBytes mlen), r.2.1, r.2.2⟩, bytesOfBlock r.1) := by
  have hnblk : ¬ (mlen + 15) / 16 = 0 := by omega
  simp only [decryptMessage, h, if_neg hnblk]
  cases (a.chain.final (mlen % 16)).decryptAt c rke rkd periodic ((mlen + 15) / 16) a.tags
    (blockOfBytes ((ct.drop (16 * ((mlen + 15) / 16 - 1))).take 16)) <;> rfl

end DecryptMessage

/-! ## Decryption undoes encryption (R153) -/

section RoundTrip

variable (c : Setup) (key : Block) (periodic : Bool)

/-- R9 (b) and R122: at equal offsets and chaining state DecBlock undoes EncBlock. -/
theorem Chain.decrypt_encrypt (ch : Chain) (p : Block) :
    ch.decrypt c (c.ksDec (c.ksEnc key)) (ch.encrypt c (c.ksEnc key) p).1 = (p, (ch.encrypt c (c.ksEnc key) p).2) := by
  simp only [Chain.decrypt, Chain.encrypt, xor_cancel_right, c.dec_enc, rhoInv_rho]

/-- The head of the tag stream is the tag that the encryption of the block produced. -/
theorem Chain.decryptAt_encryptAt (ch : Chain) (i : Nat) (p : Block) (rest : List Byte) :
    let e := ch.encryptAt c (c.ksEnc key) periodic i p
    ch.decryptAt c (c.ksEnc key) (c.ksDec (c.ksEnc key)) periodic i (e.tags ++ rest) (blockOfBytes e.out) =
      some (p, rest, e.chain) := by
  simp only [Chain.decryptAt, Chain.encryptAt, List.take_left, List.drop_left, if_true, blockOfBytes_bytesOfBlock,
    Chain.decrypt_encrypt]

theorem Chain.decryptAt_encryptAt_last (ch : Chain) (i : Nat) (p : Block) :
    let e := ch.encryptAt c (c.ksEnc key) periodic i p
    ch.decryptAt c (c.ksEnc key) (c.ksDec (c.ksEnc key)) periodic i e.tags (blockOfBytes e.out) =
      some (p, [], e.chain) := by
  simpa only [List.append_nil] using Chain.decryptAt_encryptAt c key periodic ch i p []

theorem decryptBlocks_encryptBlocks (i : Nat) (ch : Chain) (ps : List Block) (rest more : List Byte) :
    let e := encryptBlocks c (c.ksEnc key) periodic i ch ps
    decryptBlocks c (c.ksEnc key) (c.ksDec (c.ksEnc key)) periodic i ch (e.tags ++ rest)
      (wholeBlocks (e.out ++ more) ps.length) = some ⟨ps.flatMap bytesOfBlock, rest, e.chain⟩ := by
  induction ps generalizing i ch with
  | nil => rfl
  | cons p ps ih =>
    dsimp only
    rw [encryptBlocks_cons, List.length_cons, List.append_assoc, List.append_assoc,
      wholeBlocks_append (Chain.encryptAt_out_length ..),
      decryptBlocks_cons_of_some c (Chain.decryptAt_encryptAt c key periodic (ch.offsets dbl) i p _), ih]
    rfl

end RoundTrip

/-- The recovered bytes of the final block: the data, or the data with its padding. -/
theorem bytesOfBlock_finalBlock {bs : List Byte} (h : bs.length ≤ 16) :
    bytesOfBlock (finalBlock bs) = if bs.length = 16 then bs else padBytes bs := by
  unfold finalBlock
  split_ifs with hfull
  · exact bytesOfBlock_blockOfBytes hfull
  · exact bytesOfBlock_blockOfBytes (padBytes_length (by omega))

theorem take_finalBlock {bs : List Byte} (h : bs.length ≤ 16) :
    (bytesOfBlock (finalBlock bs)).take bs.length = bs := by
  rw [bytesOfBlock_finalBlock h]
  split_ifs
  · exact List.take_length
  · exact List.take_left

/-- Padding is accepted (43_colm0.md R143, R151). -/
theorem paddingVerdict_padBytes (bs : List Byte) : paddingVerdict bs.length (padBytes bs) = .success := by
  have hmarker : (padBytes bs)[bs.length]? = some 0x80#8 := by simp [padBytes]
  have htail : (padBytes bs).drop (bs.length + 1) = List.replicate (15 - bs.length) 0x00#8 := by simp [padBytes]
  have hzero : ¬ (List.replicate (15 - bs.length) 0x00#8).any (· != 0x00#8) = true := by simp
  rw [paddingVerdict, if_neg (not_not.mpr hmarker), htail, if_neg hzero, ite_self]

/-- The bytes behind the non-final blocks are those of the final block; there are `tagBytes` of them. -/
theorem length_drop_final {msg : List Byte} (h : msg ≠ []) :
    (msg.drop (16 * ((msg.length + 15) / 16 - 1))).length = tagBytes msg.length := by
  have hpos := List.length_pos_iff.mpr h
  rw [List.length_drop, tagBytes]
  split_ifs <;> omega

theorem tagBytes_le (n : Nat) : tagBytes n ≤ 16 := by
  rw [tagBytes]
  split_ifs <;> omega

theorem paddingVerdict_finalBlock {bs : List Byte} {n : Nat} (h : bs.length = tagBytes n) :
    paddingVerdict (n % 16) (bytesOfBlock (finalBlock bs)) = .success := by
  rw [bytesOfBlock_finalBlock (h ▸ tagBytes_le n)]
  by_cases hn : n % 16 = 0
  · exact if_pos hn
  · have hlen : bs.length = n % 16 := by rw [h, tagBytes, if_neg hn]
    rw [if_neg (by omega), ← hlen, paddingVerdict_padBytes]

section RoundTrip

variable (c : Setup) (key : Block) (periodic : Bool) (ch : Chain)

theorem encryptMessage_of_ne_nil (rke : Sched) {msg : List Byte} (h : msg ≠ []) :
    encryptMessage c rke periodic ch msg =
      let nblk := (msg.length + 15) / 16
      let a := encryptBlocks c rke periodic 1 ch (wholeBlocks msg (nblk - 1))
      let b := (a.chain.final (msg.length % 16)).encryptAt c rke periodic nblk
        (finalBlock (msg.drop (16 * (nblk - 1))))
      ⟨a.out ++ b.out, a.tags ++ b.tags, b.chain⟩ := by
  have hpos := List.length_pos_iff.mpr h
  exact if_neg (by omega)

theorem encryptMessage_out_length (rke : Sched) (msg : List Byte) :
    (encryptMessage c rke periodic ch msg).out.length = 16 * ((msg.length + 15) / 16) := by
  by_cases h : msg = []
  · subst h; rfl
  · have hpos := List.length_pos_iff.mpr h
    rw [encryptMessage_of_ne_nil c periodic ch rke h, List.length_append, encryptBlocks_out_length,
      Chain.encryptAt_out_length, wholeBlocks_length]
    omega

theorem encryptMessage_tags_length (rke : Sched) (msg : List Byte) :
    (encryptMessage c rke periodic ch msg).tags.length =
      if periodic = true then 16 * ((msg.length + 15) / 16 / 127) else 0 := by
  by_cases h : msg = []
  · subst h
    cases periodic <;> rfl
  · have hpos := List.length_pos_iff.mpr h
    have hblocks := encryptBlocks_tags_length c rke periodic ch (wholeBlocks msg ((msg.length + 15) / 16 - 1)) le_rfl
    have hnblk : 1 + ((msg.length + 15) / 16 - 1) = (msg.length + 15) / 16 := by omega
    rw [wholeBlocks_length, hnblk] at hblocks
    have hfinal := fun ch : Chain => Chain.encryptAt_tags_length c rke periodic ch
      (i := (msg.length + 15) / 16) (by omega) (finalBlock (msg.drop (16 * ((msg.length + 15) / 16 - 1))))
    have hone : tagBytesUpTo periodic 1 = 0 := by cases periodic <;> rfl
    have hlast : tagBytesUpTo periodic ((msg.length + 15) / 16 + 1) =
      if periodic = true then 16 * ((msg.length + 15) / 16 / 127) else 0 := rfl
    rw [encryptMessage_of_ne_nil c periodic ch rke h, ← hlast, ← hfinal, ← hblocks, hone, Nat.zero_add,
      List.length_append]

/-- The message part of the encryption is undone, whatever stands behind the two streams. -/
theorem decryptMessage_encryptMessage (msg : List Byte) :
    ∃ pf, paddingVerdict (msg.length % 16) pf = .success ∧
      ∀ more, decryptMessage c (c.ksEnc key) (c.ksDec (c.ksEnc key)) periodic ch msg.length
          (encryptMessage c (c.ksEnc key) periodic ch msg).tags
          ((encryptMessage c (c.ksEnc key) periodic ch msg).out ++ more) =
        some (⟨msg, [], (encryptMessage c (c.ksEnc key) periodic ch msg).chain⟩, pf) := by
  by_cases h : msg = []
  · subst h
    exact ⟨[], rfl, fun _ => rfl⟩
  · have hpos := List.length_pos_iff.mpr h
    have hfinal := length_drop_final h
    have hblocks := decryptBlocks_encryptBlocks c key periodic 1 ch (wholeBlocks msg ((msg.length + 15) / 16 - 1))
    have houtlen := encryptBlocks_out_length c (c.ksEnc key) periodic 1 ch
      (wholeBlocks msg ((msg.length + 15) / 16 - 1))
    rw [wholeBlocks_length] at hblocks houtlen
    refine ⟨_, paddingVerdict_finalBlock hfinal, fun more => ?_⟩
    rw [encryptMessage_of_ne_nil c periodic ch _ h]
    dsimp only
    rw [List.append_assoc, decryptMessage_of_blocks_some (hblocks _ _) hpos]
    dsimp only
    rw [List.drop_left' houtlen, List.take_left' (Chain.encryptAt_out_length ..)]
    have hlast := Chain.decryptAt_encryptAt_last c key periodic
      ((encryptBlocks c (c.ksEnc key) periodic 1 ch (wholeBlocks msg ((msg.length + 15) / 16 - 1))).chain.final
        (msg.length % 16)) ((msg.length + 15) / 16) (finalBlock (msg.drop (16 * ((msg.length + 15) / 16 - 1))))
    rw [hlast, Option.map_some]
    dsimp only
    rw [flatMap_wholeBlocks (by omega), ← hfinal, take_finalBlock (hfinal ▸ tagBytes_le _), List.take_append_drop]

end RoundTrip

/-- The final tag in the stream is as long as the rest of the message, or a whole block (10_state.md R26). -/
theorem sixteen_mul_add_tagBytes (n : Nat) : 16 * ((n + 15) / 16) + tagBytes n = n + 16 := by
  rw [tagBytes]
  split_ifs <;> omega

theorem colmEnc_length (c : Setup) (periodic : Bool) (key nonce ad msg : List Byte) :
    (colmEnc c periodic key nonce ad msg).1.length = msg.length + 16 := by
  rw [colmEnc_eq, ← sixteen_mul_add_tagBytes]
  dsimp only
  rw [List.length_append, encryptMessage_out_length, List.length_take, bytesOfBlock_length,
    min_eq_left (tagBytes_le _)]

/-- Settles O57: the message part is undone, the tag behind it is the one the decryption computes, and the padding is
accepted. -/
theorem decryptionInvertsEncryption : Obligations.DecryptionInvertsEncryption := by
  intro c periodic key nonce ad msg enc
  have hlen : enc.1.length = msg.length + 16 := colmEnc_length c periodic key nonce ad msg
  have henc := colmEnc_eq c periodic key nonce ad msg
  refine ⟨?_, hlen, ?_⟩
  · obtain ⟨pf, hpadding, hmessage⟩ := decryptMessage_encryptMessage c (blockOfBytes key) periodic
      (startChain c periodic (c.ksEnc (blockOfBytes key)) nonce ad) msg
    have hout := encryptMessage_out_length c periodic
      (startChain c periodic (c.ksEnc (blockOfBytes key)) nonce ad) (c.ksEnc (blockOfBytes key)) msg
    rw [colmDec_eq _ _ _ _ _ _ _ (by omega), hlen, Nat.add_sub_cancel]
    dsimp only [enc]
    rw [henc]
    dsimp only
    rw [hmessage, List.drop_left' hout]
    simp [decryptVerdict, hpadding, releaseOn]
  · dsimp only [enc]
    rw [henc]
    exact encryptMessage_tags_length c periodic _ _ msg

end Sys2Proof.Machine
end

section
/-! PROOFS of the family 43_colm0.md, third part: a group of three blocks does what three single blocks do
(45_batched3.md R181 to R185). The wide commands then need no argument of their own: their runs are read one block at a
time, as those of the sequential commands are. -/
namespace Sys2Proof.Machine

/-! ## Stores into different spaces -/

theorem Memory.setBuf_comm (m : Memory) {sp sp' : Space} (h : sp ≠ sp') (b b' : Buffer) :
    (m.setBuf sp b).setBuf sp' b' = (m.setBuf sp' b').setBuf sp b := by
  cases sp <;> cases sp' <;> first | rfl | exact absurd rfl h

theorem Memory.writeByte_comm (m : Memory) {sp sp' : Space} (h : sp ≠ sp') (a a' : Nat) (v v' : Byte) :
    (m.writeByte sp a v).writeByte sp' a' v' = (m.writeByte sp' a' v').writeByte sp a v := by
  simp only [Memory.writeByte, Memory.buf_setBuf, if_neg h, if_neg h.symm]
  exact m.setBuf_comm h _ _

theorem Memory.write_writeByte_comm (m : Memory) {sp sp' : Space} (h : sp ≠ sp') (a a' : Nat) (bs : List Byte) (v : Byte) :
    (m.write sp a bs).writeByte sp' a' v = (m.writeByte sp' a' v).write sp a bs := by
  induction bs generalizing m a with
  | nil => rfl
  | cons b bs ih => rw [Memory.write, ih, m.writeByte_comm h, Memory.write]

theorem Memory.write_comm (m : Memory) {sp sp' : Space} (h : sp ≠ sp') (a a' : Nat) (bs bs' : List Byte) :
    (m.write sp a bs).write sp' a' bs' = (m.write sp' a' bs').write sp a bs := by
  induction bs' generalizing m a' with
  | nil => rfl
  | cons b bs' ih => rw [Memory.write, m.write_writeByte_comm h, ih, Memory.write]

theorem storeBlock_out_tagOut_comm (m : Memory) (a a' n n' : Nat) (x x' : Block) :
    (m.storeBlock .out a x n).storeBlock .tagOut a' x' n' = (m.storeBlock .tagOut a' x' n').storeBlock .out a x n :=
  m.write_comm Space.noConfusion _ _ _ _

theorem tagStored_storeBlock_out (c : Setup) (i : Len) (dc : Block) (s : State) (m : Memory) (a n : Nat) (x : Block) :
    tagStored c i dc { s with mem := m.storeBlock .out a x n } =
      (tagStored c i dc { s with mem := m }).storeBlock .out a x n := by
  unfold tagStored
  have hc (m : Memory) : ({ s with mem := m } : State).cadence i = s.cadence i :=
    State.cadence_congr (by rfl) i
  have ht (m : Memory) : itagValue c dc ({ s with mem := m } : State) = itagValue c dc s := rfl
  simp only [hc, ht]
  split_ifs
  · exact storeBlock_out_tagOut_comm ..
  · rfl

theorem Memory.buf_write_of_ne (m : Memory) {sp sp' : Space} (h : sp ≠ sp') (a : Nat) (bs : List Byte) :
    (m.write sp' a bs).buf sp = m.buf sp := by
  induction bs generalizing m a with
  | nil => rfl
  | cons b bs ih => rw [Memory.write, ih, Memory.writeByte, Memory.buf_setBuf, if_neg h]

theorem Memory.readByte_congr {m m' : Memory} {sp : Space} (h : m'.buf sp = m.buf sp) (a : Nat) :
    m'.readByte sp a = m.readByte sp a := by
  rw [Memory.readByte, h, Memory.readByte]

theorem Memory.loadBlock_congr {m m' : Memory} {sp : Space} (h : m'.buf sp = m.buf sp) (a : Nat) :
    m'.loadBlock sp a = m.loadBlock sp a := by
  rw [Memory.loadBlock, Memory.read_congr fun b _ _ => Memory.readByte_congr h b, Memory.loadBlock]

/-! ## One lane -/

/-- The registers after one lane of B3.ENC with the result `x` of its first pass. -/
def laneWork (f : Block → Block → Block × Block) (cad : Bool) (x : Block) (w : Work) : Work :=
  { w with
    dc := if cad then dbl (dbl w.dc) else dbl w.dc
    w := (f x w.w).2
    tagpos := if cad then w.tagpos + 16#64 else w.tagpos }

/-- The state after one lane of B3.ENC, for block `i`. -/
def laneEnd (c : Setup) (i : Len) (x : Block) (s : State) : State :=
  { s with work := laneWork rho (s.cadence i) x s.work, mem := tagStored c i (dbl (dbl s.work.dc)) s }

theorem encLane_of_room (c : Setup) {i : Len} {x : Block} {s : State} {k : Block → Block → State → Flow}
    (h : TagRoom i s) :
    encLane c i x s k = k (laneEnd c i x s).work.dc (rho x s.work.w).1 (laneEnd c i x s) := by
  have hgen : cadenceGen c i (extraDouble s) = .go { s with
      work := tagPassed (s.cadence i) { s.work with dc := dbl s.work.dc }
      mem := tagStored c i (dbl (dbl s.work.dc)) s } := cadenceGen_of_room (s := extraDouble s) h
  rw [encLane, hgen, Flow.andThen_go]
  rfl

/-- The tag of block `i` has its room in TAGOUT. -/
theorem AtBlock.tagRoom {s t : State} {i : Len} (h : AtBlock s i.toNat t) (hpos : 1 ≤ i.toNat)
    (hle : i.toNat ≤ s.nblk) : TagRoom i t := fun hc => by
  rw [State.cadence_congr h.latch] at hc
  rw [State.spaceSize_congr h.latch, h.tagpos, ← tagBytesBefore_succ_of_cadence hpos hc]
  exact tagBytesBefore_succ_le hle

/-- The next block at `IDX`, its tag passed. -/
theorem AtBlock.tagPassed {s : State} {i : Len} (h : s.work.tagpos.toNat = s.tagBytesBefore i.toNat)
    (hpos : 1 ≤ i.toNat) (hle : i.toNat ≤ s.nblk) :
    (if s.cadence i then s.work.tagpos + 16#64 else s.work.tagpos).toNat = s.tagBytesBefore (i.toNat + 1) := by
  have hat : AtBlock s i.toNat { s with work := { s.work with idx := s.work.idx } } := ⟨rfl, rfl, h⟩
  split_ifs with hc
  · exact (hat.advanceTagpos hpos hle hc).tagpos
  · exact (hat.pass hpos hc).tagpos

theorem AtMsg.blkEncStep_eq (c : Setup) {s : State} (h : AtMsg s) : blkEncStep c s = .go (blkEncEnd c s) :=
  blkEncStep_of_le c (blockAddr_fits h.pos h.le h.sized.mlen_le_input) (blockAddr_fits h.pos h.le h.sized.mlen_le_out)
    ((AtBlock.of_tagpos h.tagpos).tagRoom h.pos h.le_nblk)

theorem AtBlock.laneEnd {s t : State} {i : Len} (h : AtBlock s i.toNat t) (hpos : 1 ≤ i.toNat)
    (hle : i.toNat ≤ s.nblk) (c : Setup) (x : Block) : AtBlock s (i.toNat + 1) (laneEnd c i x t) where
  latch := h.latch
  idx := h.idx
  tagpos := by
    have hnext := AtBlock.tagPassed (s := t) (i := i) (by rw [h.tagpos, State.tagBytesBefore_eq,
      State.tagBytesBefore_eq, State.periodic_congr h.latch]) hpos (by rwa [State.nblk_congr h.latch])
    rw [State.tagBytesBefore_eq, ← State.periodic_congr h.latch, ← State.tagBytesBefore_eq, ← hnext]
    rfl

/-! ### Blocks delivered behind the lanes

A group and three single blocks differ only in when a block goes to OUT and to the checksum, and in when `DM`, `IDX` and
`PHASE` advance. No lane reads any of these, so all of it may be put behind the lanes. -/

/-- A result block to be stored in OUT, with its address and the plaintext block the checksum takes. -/
structure Delivery where
  addr : Nat
  result : Block
  plain : Block

def deliver (s : State) (d : Delivery) : State :=
  accumulate d.plain { s with mem := s.mem.storeBlock .out d.addr d.result 16 }

def deliverAll (ds : List Delivery) (s : State) : State := ds.foldl deliver s

/-- The message offset, the block index and the phase set anew. -/
def retarget (dm : Block) (i : Len) (ph : Phase) (s : State) : State :=
  { s with work := { s.work with dm := dm, idx := i }, phase := ph }

theorem retarget_latch (dm : Block) (i : Len) (ph : Phase) (s : State) : (retarget dm i ph s).latch = s.latch := rfl

theorem retarget_retarget (dm dm' : Block) (i i' : Len) (ph ph' : Phase) (s : State) :
    retarget dm i ph (retarget dm' i' ph' s) = retarget dm i ph s := rfl

theorem deliverAll_retarget (ds : List Delivery) (dm : Block) (i : Len) (ph : Phase) (s : State) :
    deliverAll ds (retarget dm i ph s) = retarget dm i ph (deliverAll ds s) := by
  induction ds generalizing s with
  | nil => rfl
  | cons d ds ih => exact ih (deliver s d)

theorem deliverAll_concat (ds : List Delivery) (d : Delivery) (s : State) :
    deliverAll (ds ++ [d]) s = deliver (deliverAll ds s) d := List.foldl_concat ..

theorem laneEnd_deliver (c : Setup) (i : Len) (x : Block) (s : State) (d : Delivery) :
    laneEnd c i x (deliver s d) = deliver (laneEnd c i x s) d := by
  have hmem : tagStored c i (dbl (dbl s.work.dc)) (deliver s d) =
      (tagStored c i (dbl (dbl s.work.dc)) s).storeBlock .out d.addr d.result 16 :=
    tagStored_storeBlock_out c i _ (accumulate d.plain s) s.mem ..
  have hcad : (deliver s d).cadence i = s.cadence i := State.cadence_congr (by rfl) i
  have hdc : (deliver s d).work.dc = s.work.dc := rfl
  rw [laneEnd, hdc, hmem, hcad]
  rfl

theorem laneEnd_deliverAll (c : Setup) (i : Len) (x : Block) (ds : List Delivery) (s : State) :
    laneEnd c i x (deliverAll ds s) = deliverAll ds (laneEnd c i x s) := by
  induction ds generalizing s with
  | nil => rfl
  | cons d ds ih => rw [deliverAll, List.foldl_cons, ← deliverAll, ih, laneEnd_deliver, deliverAll, deliverAll,
      List.foldl_cons]

/-- What deliveries leave alone: all registers but the checksum, and every space but OUT. -/
structure DeliveredFrom (s t : State) : Prop where
  work : t.work = { s.work with cs := t.work.cs }
  control : SameControl s t
  bufs : ∀ sp, sp ≠ .out → t.mem.buf sp = s.mem.buf sp

theorem deliverAll_deliveredFrom (ds : List Delivery) (s : State) : DeliveredFrom s (deliverAll ds s) := by
  induction ds using List.reverseRecOn with
  | nil => exact ⟨rfl, .refl s, fun _ _ => rfl⟩
  | append_singleton ds d ih =>
    rw [deliverAll_concat]
    refine ⟨?_, ih.control.update _ _ _, fun sp hsp => (Memory.buf_write_of_ne _ hsp _ _).trans (ih.bufs sp hsp)⟩
    rw [deliver, accumulate, ih.work]

theorem DeliveredFrom.input {s t : State} (h : DeliveredFrom s t) (a : Nat) :
    t.mem.loadBlock .input a = s.mem.loadBlock .input a :=
  Memory.loadBlock_congr (h.bufs .input Space.noConfusion) a

/-- The result of lane `i` of B3.ENC, with the message offset `dm`. -/
def encLaneIn (c : Setup) (i : Len) (dm : Block) (s : State) : Block :=
  c.bcEnc s.work.rke (s.mem.loadBlock .input (blockAddr i) ^^^ dm)

/-- The plaintext block `p`, whose first pass gave `x`, delivered by lane `i`. -/
def encDelivery (c : Setup) (i : Len) (p x : Block) (s : State) : Delivery where
  addr := blockAddr i
  result := c.bcEnc s.work.rke (rho x s.work.w).1 ^^^ (laneEnd c i x s).work.dc
  plain := p

def msgPhase (i : Len) (s : State) : Phase := if i.toNat ≤ s.nnf then .msg else .finOfs

theorem blkEncEnd_retarget (c : Setup) (dm : Block) (i : Len) (ph : Phase) (s : State) :
    let x := encLaneIn c i (dbl dm) s
    blkEncEnd c (retarget dm i ph s) =
      retarget (dbl dm) (i + 1#64) (msgPhase (i + 1#64) s)
        (deliver (laneEnd c i x s) (encDelivery c i (s.mem.loadBlock .input (blockAddr i)) x s)) := by
  intro x
  have hcad : (retarget dm i ph s).cadence i = s.cadence i := State.cadence_congr (by rfl) i
  have hnnf : (retarget dm i ph s).nnf = s.nnf := State.nnf_congr (by rfl)
  have hidx : (retarget dm i ph s).work.idx = i := rfl
  have htag (dc : Block) : tagStored c i dc (retarget dm i ph s) = tagStored c i dc s := by
    rw [tagStored, hcad]
    rfl
  simp only [blkEncEnd, hidx, hcad, hnnf, htag]
  rfl

/-- A block behind delivered lanes is one more lane with one more delivery. -/
theorem blkEncEnd_delivered (c : Setup) (dm : Block) (i : Len) (ph : Phase) (ds : List Delivery) (s : State) :
    let x := encLaneIn c i (dbl dm) s
    blkEncEnd c (retarget dm i ph (deliverAll ds s)) =
      retarget (dbl dm) (i + 1#64) (msgPhase (i + 1#64) s)
        (deliverAll (ds ++ [encDelivery c i (s.mem.loadBlock .input (blockAddr i)) x s]) (laneEnd c i x s)) := by
  intro x
  have hds := deliverAll_deliveredFrom ds s
  have hphase : msgPhase (i + 1#64) (deliverAll ds s) = msgPhase (i + 1#64) s := by
    rw [msgPhase, State.nnf_congr hds.control.latch, msgPhase]
  have hrke : (deliverAll ds s).work.rke = s.work.rke := by rw [hds.work]
  have hw : (deliverAll ds s).work.w = s.work.w := by rw [hds.work]
  have hin : encLaneIn c i (dbl dm) (deliverAll ds s) = x := by
    rw [encLaneIn, hds.input, hrke]
    rfl
  have hdc : (laneEnd c i x (deliverAll ds s)).work.dc = (laneEnd c i x s).work.dc := by
    rw [laneEnd_deliverAll, (deliverAll_deliveredFrom ds _).work]
  have hdelivery (p : Block) : encDelivery c i p x (deliverAll ds s) = encDelivery c i p x s := by
    rw [encDelivery, hdc, hrke, hw, encDelivery]
  rw [blkEncEnd_retarget, hphase, hin, hdelivery, laneEnd_deliverAll, hds.input, deliverAll_concat]

theorem laneEnd_retarget (c : Setup) (j : Len) (x dm : Block) (i : Len) (ph : Phase) (s : State) :
    laneEnd c j x (retarget dm i ph s) = retarget dm i ph (laneEnd c j x s) := by
  have hcad : (retarget dm i ph s).cadence j = s.cadence j := State.cadence_congr (by rfl) j
  have htag (dc : Block) : tagStored c j dc (retarget dm i ph s) = tagStored c j dc s := by
    rw [tagStored, hcad]
    rfl
  rw [laneEnd, hcad, htag]
  rfl

theorem laneEnd_loadBlock (c : Setup) (i : Len) (x : Block) (s : State) (a : Nat) :
    (laneEnd c i x s).mem.loadBlock .input a = s.mem.loadBlock .input a := tagStored_loadBlock ..

theorem encLaneIn_laneEnd (c : Setup) (i j : Len) (x dm : Block) (s : State) :
    encLaneIn c i dm (laneEnd c j x s) = encLaneIn c i dm s := by
  rw [encLaneIn, laneEnd_loadBlock]
  rfl

/-- Three blocks, all deliveries put behind the lanes. -/
theorem blkEncEnd_three (c : Setup) (s : State) :
    let i := s.work.idx
    let om0 := dbl s.work.dm
    let om1 := dbl om0
    let om2 := dbl om1
    let p := fun j => s.mem.loadBlock .input (blockAddr j)
    let x0 := encLaneIn c i om0 s
    let x1 := encLaneIn c (i + 1#64) om1 s
    let x2 := encLaneIn c (i + 2#64) om2 s
    let s1 := laneEnd c i x0 s
    let s2 := laneEnd c (i + 1#64) x1 s1
    let s3 := laneEnd c (i + 2#64) x2 s2
    blkEncEnd c (blkEncEnd c (blkEncEnd c s)) =
      retarget om2 (i + 3#64) (msgPhase (i + 3#64) s) (deliverAll
        [encDelivery c i (p i) x0 s, encDelivery c (i + 1#64) (p (i + 1#64)) x1 s1,
          encDelivery c (i + 2#64) (p (i + 2#64)) x2 s2] s3) := by
  intro i om0 om1 om2 p x0 x1 x2 s1 s2 s3
  have hs : s = retarget s.work.dm i s.phase (deliverAll [] s) := rfl
  have h2 : i + 1#64 + 1#64 = i + 2#64 := by rw [BitVec.add_assoc]; rfl
  have h3 : i + 2#64 + 1#64 = i + 3#64 := by rw [BitVec.add_assoc]; rfl
  have hphase : msgPhase (i + 3#64) s2 = msgPhase (i + 3#64) s := by
    rw [msgPhase, State.nnf_congr (s := s) (by rfl), msgPhase]
  conv_lhs => rw [hs]
  rw [blkEncEnd_delivered, blkEncEnd_delivered, h2, blkEncEnd_delivered, h3]
  simp only [encLaneIn_laneEnd, laneEnd_loadBlock]
  rw [hphase]
  rfl

/-- The end of a group: three deliveries and the advance past them. -/
theorem advanceMsg_group (s : State) (d0 d1 d2 : Delivery) :
    advanceMsg 3#64 (accumulateGroup (d0.plain, d1.plain, d2.plain) { s with
      mem := ((s.mem.storeBlock .out d0.addr d0.result 16).storeBlock .out d1.addr d1.result 16).storeBlock .out
        d2.addr d2.result 16 }) =
    retarget s.work.dm (s.work.idx + 3#64) (msgPhase (s.work.idx + 3#64) s) (deliverAll [d0, d1, d2] s) :=
  advanceMsg_eq (s := s) 3#64 (by rfl)

/-- One lane with its tag in TAGOUT; the next lane finds its own. -/
theorem encLane_of_atBlock (c : Setup) {s t : State} {n : Nat} {i : Len} (h : AtBlock s n t) (hi : i.toNat = n)
    (hpos : 1 ≤ n) (hle : n ≤ s.nblk) (x dm : Block) (j : Len) (ph : Phase) :
    (∀ k, encLane c i x (retarget dm j ph t) k =
      k (laneEnd c i x t).work.dc (rho x t.work.w).1 (retarget dm j ph (laneEnd c i x t))) ∧
      AtBlock s (n + 1) (laneEnd c i x t) := by
  subst hi
  have hroom : TagRoom i (retarget dm j ph t) := h.tagRoom hpos hle
  refine ⟨fun k => ?_, h.laneEnd hpos hle c x⟩
  rw [encLane_of_room c hroom, laneEnd_retarget]
  rfl

theorem b3EncStep_of_group (c : Setup) {s : State} (h : AtMsg s) (hg : InGroup s) :
    b3EncStep c s = .go (blkEncEnd c (blkEncEnd c (blkEncEnd c s))) := by
  have hseq := blkEncEnd_three c s
  extract_lets i om0 om1 om2 p x0 x1 x2 s1 s2 s3 at hseq
  rw [hseq]
  have hblk := hg.le_nblk
  have hpos := h.pos
  obtain ⟨hlane0, hat1⟩ := encLane_of_atBlock c (AtBlock.of_tagpos h.tagpos) rfl hpos (by omega) x0 om2 i s.phase
  obtain ⟨hlane1, hat2⟩ := encLane_of_atBlock c (i := i + 1#64) hat1 (hg.lane_toNat rfl (j := 1) (by decide))
    (by omega) (by omega) x1 om2 i s.phase
  obtain ⟨hlane2, hat3⟩ := encLane_of_atBlock c (i := i + 2#64) hat2 (hg.lane_toNat rfl (j := 2) (by decide))
    (by omega) (by omega) x2 om2 i s.phase
  have hg0 : InGroup (retarget om2 i s.phase s) := hg.congr rfl rfl
  have hin := (h.sized.congr (t := retarget om2 i s.phase s) rfl).mlen_le_input
  have hload : ∀ k, loadGroup (retarget om2 i s.phase s) k = k (p i, p (i + 1#64), p (i + 2#64)) := fun k =>
    loadGroup_of_le (hg0.fits_first hin) (hg0.fits hin (j := 1) (by decide)) (hg0.fits hin (j := 2) (by decide))
  have hlatch : (retarget om2 i s.phase s3).latch = s.latch := (retarget_latch ..).trans hat3.latch
  have hg3 : InGroup (retarget om2 i s.phase s3) := hg.congr hlatch rfl
  have hout := (h.sized.congr hlatch).mlen_le_out
  have hstore := fun x => storeGroup_of_le (x := x) (hg3.fits_first hout) (hg3.fits hout (j := 1) (by decide))
    (hg3.fits hout (j := 2) (by decide))
  have hend := advanceMsg_group (retarget om2 i s.phase s3) (encDelivery c i (p i) x0 s)
    (encDelivery c (i + 1#64) (p (i + 1#64)) x1 s1) (encDelivery c (i + 2#64) (p (i + 2#64)) x2 s2)
  rw [b3EncStep]
  refine (hload _).trans ?_
  refine (hlane0 _).trans ((hlane1 _).trans ((hlane2 _).trans ?_))
  refine (congrArg (fun f => Flow.andThen f _) (hstore _)).trans (congrArg Flow.go (hend.trans ?_))
  have hphase : msgPhase (i + 3#64) (retarget om2 i s.phase s3) = msgPhase (i + 3#64) s := by
    rw [msgPhase, State.nnf_congr hlatch, msgPhase]
  have hdm : (retarget om2 i s.phase s3).work.dm = om2 := rfl
  have hidx : (retarget om2 i s.phase s3).work.idx = i := rfl
  rw [hdm, hidx, hphase, deliverAll_retarget, retarget_retarget]

/-! ### A failing check -/

theorem SameControl.trans {s t u : State} (h : SameControl s t) (h' : SameControl t u) : SameControl s u where
  host := h'.host.trans h.host
  latch := h'.latch.trans h.latch
  busy := h'.busy.trans h.busy
  done := h'.done.trans h.done
  status := h'.status.trans h.status
  outlen := h'.outlen.trans h.outlen
  tagoutlen := h'.tagoutlen.trans h.tagoutlen
  reported := h'.reported.trans h.reported
  ports := h'.ports.trans h.ports
  inbox := h'.inbox.trans h.inbox
  issueWord := h'.issueWord.trans h.issueWord
  readout := h'.readout.trans h.readout
  fresh := h'.fresh.trans h.fresh

/-- A failure leaves the same state whatever the working registers and OUT held (60_exceptions.md R236, 10_state.md
R31). -/
theorem haltWith_failure_congr {st : Status} (hst : st ≠ .success) {s u : State} (h : SameControl s u)
    (hm : ∀ sp, sp ≠ .out → u.mem.buf sp = s.mem.buf sp) : haltWith st u = haltWith st s := by
  have hout (b : Buffer) (gen : Nat) : b.forgetFrom 0 gen = ⟨[], gen⟩ := by simp [Buffer.forgetFrom]
  have hkey : u.mem.key = s.mem.key := hm .key Space.noConfusion
  have hnonce : u.mem.nonce = s.mem.nonce := hm .nonce Space.noConfusion
  have had : u.mem.ad = s.mem.ad := hm .ad Space.noConfusion
  have hinput : u.mem.input = s.mem.input := hm .input Space.noConfusion
  have htagIn : u.mem.tagIn = s.mem.tagIn := hm .tagIn Space.noConfusion
  have htagOut : u.mem.tagOut = s.mem.tagOut := hm .tagOut Space.noConfusion
  simp only [haltWith, haltOutlen_failure _ hst, haltTagoutlen_failure _ hst, h.host, h.latch, h.ports, h.inbox,
    h.issueWord, h.readout, h.fresh, hkey, hnonce, had, hinput, htagIn, htagOut, BitVec.toNat_zero, hout]

/-! ### Lanes of B3.DEC -/

/-- The state after one lane of B3.DEC, for block `i`, with the result `x` of its first pass. -/
def decLaneEnd (i : Len) (x : Block) (s : State) : State :=
  { s with work := laneWork rhoInv (s.cadence i) x s.work }

/-- The ciphertext offset of the whole group set at its start. -/
def presetDc (dc : Block) (s : State) : State := { s with work := { s.work with dc := dc } }

theorem presetDc_self (s : State) : presetDc s.work.dc s = s := rfl

theorem TagFits_congr (c : Setup) (i : Len) (dc : Block) {s t : State} (hl : t.latch = s.latch)
    (hm : ∀ a, t.mem.readByte .tagIn a = s.mem.readByte .tagIn a) (htp : t.work.tagpos = s.work.tagpos)
    (hw : t.work.w = s.work.w) (hrke : t.work.rke = s.work.rke) : TagFits c i dc t ↔ TagFits c i dc s := by
  simp only [TagFits, HoldsBytes, itagValue, encipher, State.cadence_congr hl, hl, hm, htp, hw, hrke]

theorem TagFits_decOffset (c : Setup) (i : Len) (s : State) :
    TagFits c i (decOffset s i s.work.dc) s ↔ TagFits c i (dbl (dbl s.work.dc)) s := by
  refine forall_congr' fun hc => ?_
  rw [decOffset, if_pos hc]

/-- All that one lane can do. -/
theorem decLane_cases (c : Setup) (i : Len) (oc x : Block) (s : State) (dm dc : Block) (j : Len) (ph : Phase) :
    TagFits c i oc s ∧ (∀ k, decLane c i oc x (retarget dm j ph (presetDc dc s)) k =
        k (rhoInv x s.work.w).1 (retarget dm j ph (presetDc dc (decLaneEnd i x s)))) ∨
      ¬ TagFits c i oc s ∧ ∀ k, decLane c i oc x (retarget dm j ph (presetDc dc s)) k =
        .halt .intermediateTagMismatch (retarget dm j ph (presetDc dc s)) := by
  have hcad : (retarget dm j ph (presetDc dc s)).cadence i = s.cadence i := State.cadence_congr (by rfl) i
  by_cases hfits : TagFits c i oc s
  · refine .inl ⟨hfits, fun k => ?_⟩
    rw [decLane, hcad, decLaneEnd]
    cases hc : s.cadence i with
    | false => rfl
    | true =>
      obtain ⟨hlen, hholds⟩ := hfits hc
      have hpass : itagCompare c oc (retarget dm j ph (presetDc dc s)) =
        .go (advanceTagpos (retarget dm j ph (presetDc dc s))) := itagCompare_of_holds hlen hholds
      rw [if_pos rfl, hpass]
      rfl
  · refine .inr ⟨hfits, fun k => ?_⟩
    obtain ⟨hc, hwrong⟩ := Classical.not_imp.mp hfits
    have hfail : itagCompare c oc (retarget dm j ph (presetDc dc s)) =
      .halt .intermediateTagMismatch (retarget dm j ph (presetDc dc s)) := itagCompare_of_not hwrong
    rw [decLane, hcad, if_pos hc, hfail, Flow.andThen_halt]

theorem decLaneEnd_deliverAll (i : Len) (x : Block) (ds : List Delivery) (s : State) :
    decLaneEnd i x (deliverAll ds s) = deliverAll ds (decLaneEnd i x s) := by
  induction ds generalizing s with
  | nil => rfl
  | cons d ds ih =>
    have hcad : (deliver s d).cadence i = s.cadence i := State.cadence_congr (by rfl) i
    have hone : decLaneEnd i x (deliver s d) = deliver (decLaneEnd i x s) d := by
      rw [decLaneEnd, hcad]
      rfl
    rw [deliverAll, List.foldl_cons, ← deliverAll, ih, hone, deliverAll, deliverAll, List.foldl_cons]

/-- The result of the first pass of lane `i` of B3.DEC. -/
def decLaneIn (c : Setup) (i : Len) (oc : Block) (s : State) : Block :=
  c.bcDec s.work.rkd (s.mem.loadBlock .input (blockAddr i) ^^^ oc)

/-- The block that lane `i` recovers with the message offset `dm`, delivered. -/
def decDelivery (c : Setup) (i : Len) (dm x : Block) (s : State) : Delivery :=
  let q := c.bcDec s.work.rkd (rhoInv x s.work.w).1 ^^^ dm
  ⟨blockAddr i, q, q⟩

theorem blkDecEnd_retarget (c : Setup) (dm : Block) (i : Len) (ph : Phase) (s : State) :
    let x := decLaneIn c i (decOffset s i s.work.dc) s
    blkDecEnd c (retarget dm i ph s) =
      retarget (dbl dm) (i + 1#64) (msgPhase (i + 1#64) s) (deliver (decLaneEnd i x s) (decDelivery c i (dbl dm) x s)) := by
  intro x
  have hcad : (retarget dm i ph s).cadence i = s.cadence i := State.cadence_congr (by rfl) i
  have hnnf : (retarget dm i ph s).nnf = s.nnf := State.nnf_congr (by rfl)
  have hidx : (retarget dm i ph s).work.idx = i := rfl
  simp only [blkDecEnd, hidx, hcad, hnnf]
  rfl

/-- A block behind delivered lanes is one more lane with one more delivery. -/
theorem blkDecEnd_delivered (c : Setup) (dm : Block) (i : Len) (ph : Phase) (ds : List Delivery) (s : State) :
    let x := decLaneIn c i (decOffset s i s.work.dc) s
    blkDecEnd c (retarget dm i ph (deliverAll ds s)) =
      retarget (dbl dm) (i + 1#64) (msgPhase (i + 1#64) s)
        (deliverAll (ds ++ [decDelivery c i (dbl dm) x s]) (decLaneEnd i x s)) := by
  intro x
  have hds := deliverAll_deliveredFrom ds s
  have hphase : msgPhase (i + 1#64) (deliverAll ds s) = msgPhase (i + 1#64) s := by
    rw [msgPhase, State.nnf_congr hds.control.latch, msgPhase]
  have hrkd : (deliverAll ds s).work.rkd = s.work.rkd := by rw [hds.work]
  have hw : (deliverAll ds s).work.w = s.work.w := by rw [hds.work]
  have hdc : (deliverAll ds s).work.dc = s.work.dc := by rw [hds.work]
  have hoffset (dc : Block) : decOffset (deliverAll ds s) i dc = decOffset s i dc := by
    rw [decOffset, State.cadence_congr hds.control.latch, decOffset]
  have hin : decLaneIn c i (decOffset s i s.work.dc) (deliverAll ds s) = x := by
    rw [decLaneIn, hds.input, hrkd]
    rfl
  have hdelivery : decDelivery c i (dbl dm) x (deliverAll ds s) = decDelivery c i (dbl dm) x s := by
    rw [decDelivery, hrkd, hw, decDelivery]
  rw [blkDecEnd_retarget, hphase, hdc, hoffset, hin, hdelivery, decLaneEnd_deliverAll, deliverAll_concat]

/-- All that one block of BLK.DEC behind delivered lanes can do, inside its spaces. -/
theorem blkDecStep_delivered (c : Setup) {s v : State} (hl : v.latch = s.latch) (hz : Sized s) {i : Len}
    (hpos : 1 ≤ i.toNat) (hle : i.toNat ≤ s.nnf) (dm : Block) (ph : Phase) (ds : List Delivery) :
    let x := decLaneIn c i (decOffset v i v.work.dc) v
    let u := retarget dm i ph (deliverAll ds v)
    TagFits c i (decOffset v i v.work.dc) v ∧ blkDecStep c u =
        .go (retarget (dbl dm) (i + 1#64) (msgPhase (i + 1#64) v)
          (deliverAll (ds ++ [decDelivery c i (dbl dm) x v]) (decLaneEnd i x v))) ∨
      ¬ TagFits c i (decOffset v i v.work.dc) v ∧
        blkDecStep c u = .halt .intermediateTagMismatch (extraDouble (offsets dbl u)) := by
  intro x u
  have hds := deliverAll_deliveredFrom ds v
  have hlatch : u.latch = s.latch := (retarget_latch ..).trans (hds.control.latch.trans hl)
  have hidx : u.work.idx = i := rfl
  have hdc : u.work.dc = v.work.dc := by rw [show u.work.dc = (deliverAll ds v).work.dc from rfl, hds.work]
  have hfits : TagFits c u.work.idx (dbl (dbl u.work.dc)) u ↔ TagFits c i (decOffset v i v.work.dc) v := by
    rw [TagFits_decOffset, hidx, hdc]
    refine TagFits_congr c i _ (hlatch.trans hl.symm)
      (Memory.readByte_congr (m' := (deliverAll ds v).mem) (hds.bufs .tagIn Space.noConfusion)) ?_ ?_ ?_
    · rw [show u.work.tagpos = (deliverAll ds v).work.tagpos from rfl, hds.work]
    · rw [show u.work.w = (deliverAll ds v).work.w from rfl, hds.work]
    · rw [show u.work.rke = (deliverAll ds v).work.rke from rfl, hds.work]
  have hroom {sp : Space} (hsp : s.mlen ≤ s.spaceSize sp) : blockAddr u.work.idx + 16 ≤ u.spaceSize sp := by
    rw [hidx, State.spaceSize_congr hlatch]
    exact blockAddr_fits hpos hle hsp
  by_cases h : TagFits c i (decOffset v i v.work.dc) v
  · refine .inl ⟨h, ?_⟩
    rw [blkDecStep_of_le c (hroom hz.mlen_le_input) (hroom hz.mlen_le_out) (hfits.mpr h)]
    exact congrArg Flow.go (blkDecEnd_delivered c dm i ph ds v)
  · exact .inr ⟨h, blkDecStep_of_not_fits c (mt hfits.mp h)⟩

theorem decOffset_decLaneEnd (i j : Len) (x dc : Block) (s : State) :
    decOffset (decLaneEnd j x s) i dc = decOffset s i dc := by
  rw [decOffset, State.cadence_congr (s := s) (by rfl), decOffset]

theorem decLaneEnd_dc (i : Len) (x : Block) (s : State) : (decLaneEnd i x s).work.dc = decOffset s i s.work.dc := rfl

/-- HALT of a raising check leaves the same state wherever in the group it is reached. -/
theorem raise_delivered {s v : State} (hv : SameControl s v) (hm : v.mem = s.mem) (ds : List Delivery) (dm : Block)
    (i : Len) (ph : Phase) :
    (Flow.halt .intermediateTagMismatch (extraDouble (offsets dbl (retarget dm i ph (deliverAll ds v))))).finish =
      .next (haltWith .intermediateTagMismatch s) := by
  have hds := deliverAll_deliveredFrom ds v
  exact congrArg _ (haltWith_failure_congr Status.noConfusion ((hv.trans hds.control).update _ _ _)
    fun sp hsp => hm ▸ hds.bufs sp hsp)

theorem raise_preset {s v : State} (hv : SameControl s v) (hm : v.mem = s.mem) (dm dc : Block) (i : Len) (ph : Phase) :
    (Flow.halt .intermediateTagMismatch (retarget dm i ph (presetDc dc v))).finish =
      .next (haltWith .intermediateTagMismatch s) :=
  congrArg _ (haltWith_failure_congr Status.noConfusion (hv.update _ _ _) fun _ _ => hm ▸ rfl)

/-- R182, R187: a group raises where one of its three blocks would, and else does what the three do. What a failing
command leaves in OUT is forgotten by HALT (10_state.md R31; log entry 13). -/
theorem b3DecStep_finish (c : Setup) {s : State} (hz : Sized s) (hg : InGroup s) :
    (b3DecStep c s).finish =
      ((blkDecStep c s).andThen fun s1 => (blkDecStep c s1).andThen (blkDecStep c)).finish := by
  let i := s.work.idx
  have hpos : 1 ≤ i.toNat := hg.pos
  have hle : i.toNat + 2 ≤ s.nnf := hg.le
  let om0 := dbl s.work.dm
  let om1 := dbl om0
  let om2 := dbl om1
  let oc0 := decOffset s i s.work.dc
  let oc1 := decOffset s (i + 1#64) oc0
  let oc2 := decOffset s (i + 2#64) oc1
  let x0 := decLaneIn c i oc0 s
  let x1 := decLaneIn c (i + 1#64) oc1 s
  let x2 := decLaneIn c (i + 2#64) oc2 s
  let v1 := decLaneEnd i x0 s
  let v2 := decLaneEnd (i + 1#64) x1 v1
  let v3 := decLaneEnd (i + 2#64) x2 v2
  have hv1 : SameControl s v1 := (SameControl.refl s).update _ _ _
  have hv2 : SameControl s v2 := hv1.update _ _ _
  have hv3 : SameControl s v3 := hv2.update _ _ _
  have hlane1 : (i + 1#64).toNat = i.toNat + 1 := hg.lane_toNat rfl (j := 1) (by decide)
  have hlane2 : (i + 2#64).toNat = i.toNat + 2 := hg.lane_toNat rfl (j := 2) (by decide)
  have hoc1 : decOffset v1 (i + 1#64) v1.work.dc = oc1 := decOffset_decLaneEnd ..
  have hoc2 : decOffset v2 (i + 2#64) v2.work.dc = oc2 := by
    rw [decOffset_decLaneEnd, decOffset_decLaneEnd, decLaneEnd_dc, hoc1]
  have hblk0 := blkDecStep_delivered c (v := s) rfl hz (i := i) hpos (by omega) s.work.dm s.phase []
  have hblk1 := blkDecStep_delivered c hv1.latch hz (i := i + 1#64) (by omega) (by omega) om0
    (msgPhase (i + 1#64) s) [decDelivery c i om0 x0 s]
  have hblk2 := blkDecStep_delivered c hv2.latch hz (i := i + 2#64) (by omega) (by omega) om1
    (msgPhase (i + 2#64) v1) [decDelivery c i om0 x0 s, decDelivery c (i + 1#64) om1 x1 v1]
  have hnext2 : i + 1#64 + 1#64 = i + 2#64 := by rw [BitVec.add_assoc]; rfl
  have hnext3 : i + 2#64 + 1#64 = i + 3#64 := by rw [BitVec.add_assoc]; rfl
  rw [hoc1, hnext2] at hblk1
  rw [hoc2, hnext3] at hblk2
  have hg0 : InGroup (retarget om2 i s.phase (presetDc oc2 s)) := hg.congr (by rfl) (by rfl)
  have hin := (hz.congr (t := retarget om2 i s.phase (presetDc oc2 s)) (by rfl)).mlen_le_input
  have hload : ∀ k, loadGroup (retarget om2 i s.phase (presetDc oc2 s)) k = k (s.mem.loadBlock .input (blockAddr i),
      s.mem.loadBlock .input (blockAddr (i + 1#64)), s.mem.loadBlock .input (blockAddr (i + 2#64))) := fun k =>
    loadGroup_of_le (hg0.fits_first hin) (hg0.fits hin (j := 1) (by decide)) (hg0.fits hin (j := 2) (by decide))
  have hseq0 : blkDecStep c s = blkDecStep c (retarget s.work.dm i s.phase (deliverAll [] s)) := rfl
  rw [b3DecStep, hseq0]
  refine (congrArg Flow.finish (hload _)).trans ?_
  obtain ⟨hfit0, hlane0⟩ | ⟨hno, hlane0⟩ := decLane_cases c i oc0 x0 s om2 oc2 i s.phase
  case inr =>
    obtain ⟨hfit, -⟩ | ⟨-, hblk0⟩ := hblk0
    · exact absurd hfit hno
    rw [hblk0]
    exact ((congrArg Flow.finish (hlane0 _)).trans (raise_preset (.refl s) rfl ..)).trans
      (raise_delivered (.refl s) rfl ..).symm
  case inl =>
  obtain ⟨-, hblk0⟩ | ⟨hno, -⟩ := hblk0
  case inr => exact absurd hfit0 hno
  rw [hblk0, Flow.andThen_go]
  refine (congrArg Flow.finish (hlane0 _)).trans ?_
  obtain ⟨hfit1, hlane1⟩ | ⟨hno, hlane1⟩ := decLane_cases c (i + 1#64) oc1 x1 v1 om2 oc2 i s.phase
  case inr =>
    obtain ⟨hfit, -⟩ | ⟨-, hblk1⟩ := hblk1
    · exact absurd hfit hno
    refine ((congrArg Flow.finish (hlane1 _)).trans (raise_preset hv1 rfl ..)).trans ?_
    exact (raise_delivered hv1 rfl ..).symm.trans (congrArg (fun f => (Flow.andThen f _).finish) hblk1).symm
  case inl =>
  obtain ⟨-, hblk1⟩ | ⟨hno, -⟩ := hblk1
  case inr => exact absurd hfit1 hno
  refine Eq.trans ?_ (congrArg (fun f => (Flow.andThen f _).finish) hblk1).symm
  refine (congrArg Flow.finish (hlane1 _)).trans ?_
  obtain ⟨hfit2, hlane2⟩ | ⟨hno, hlane2⟩ := decLane_cases c (i + 2#64) oc2 x2 v2 om2 oc2 i s.phase
  case inr =>
    obtain ⟨hfit, -⟩ | ⟨-, hblk2⟩ := hblk2
    · exact absurd hfit hno
    exact ((congrArg Flow.finish (hlane2 _)).trans (raise_preset hv2 rfl ..)).trans
      ((raise_delivered hv2 rfl ..).symm.trans (congrArg Flow.finish hblk2).symm)
  case inl =>
  obtain ⟨-, hblk2⟩ | ⟨hno, -⟩ := hblk2
  case inr => exact absurd hfit2 hno
  refine Eq.trans ?_ (congrArg Flow.finish hblk2).symm
  refine (congrArg Flow.finish (hlane2 _)).trans ?_
  have hdc : v3.work.dc = oc2 := (decLaneEnd_dc ..).trans hoc2
  have hpreset : presetDc oc2 v3 = v3 := (congrArg (presetDc · v3) hdc.symm).trans (presetDc_self v3)
  have hlatch : (retarget om2 i s.phase v3).latch = s.latch := (retarget_latch ..).trans hv3.latch
  have hg3 : InGroup (retarget om2 i s.phase v3) := hg.congr hlatch rfl
  have hout := (hz.congr hlatch).mlen_le_out
  have hstore := fun x => storeGroup_of_le (x := x) (hg3.fits_first hout) (hg3.fits hout (j := 1) (by decide))
    (hg3.fits hout (j := 2) (by decide))
  have hend := advanceMsg_group (retarget om2 i s.phase v3) (decDelivery c i om0 x0 s)
    (decDelivery c (i + 1#64) om1 x1 v1) (decDelivery c (i + 2#64) om2 x2 v2)
  rw [hpreset]
  refine (congrArg (fun f => (Flow.andThen f _).finish) (hstore _)).trans (congrArg Host.Outcome.next (hend.trans ?_))
  have hdm : (retarget om2 i s.phase v3).work.dm = om2 := rfl
  have hidx : (retarget om2 i s.phase v3).work.idx = i := rfl
  have hphase : msgPhase (i + 3#64) (retarget om2 i s.phase v3) = msgPhase (i + 3#64) v2 := by
    rw [msgPhase, State.nnf_congr (hlatch.trans hv2.latch.symm), msgPhase]
  rw [hdm, hidx, hphase, deliverAll_retarget, retarget_retarget]
  rfl

end Sys2Proof.Machine
end

section
/-! PROOFS of the family 43_colm0.md, fourth part: the run of a command up to the message. From START on the controller
moves alone, one micro-operation a step (46_commands_sequencer.md R210); INIT and the MAC steps give the chain with which
the two whole functions start (42_ad_mac.md R134). -/

namespace Sys2Proof.Machine

/-! ## Runs -/

/-- The run from `s` comes to `t`. -/
def Reaches (s t : State) : Prop := ∃ n, steps n s = .next t

theorem Reaches.refl (s : State) : Reaches s s := ⟨0, rfl⟩

theorem Reaches.head {s t u : State} (h : step s = .next t) : Reaches t u → Reaches s u := by
  rintro ⟨n, hn⟩
  exact ⟨n + 1, by rw [steps, h]; exact hn⟩

theorem Reaches.of_step {s t : State} (h : step s = .next t) : Reaches s t := .head h (.refl t)

theorem Reaches.trans {s t u : State} (h : Reaches s t) (h' : Reaches t u) : Reaches s u := by
  obtain ⟨n, hn⟩ := h
  induction n generalizing s with
  | zero =>
    obtain rfl := Host.Outcome.next.inj hn
    exact h'
  | succ n ih =>
    rw [steps] at hn
    cases hs : step s with
    | next v =>
      rw [hs] at hn
      exact .head hs (ih hn)
    | fault r => rw [hs] at hn; cases hn
    | refused r => rw [hs] at hn; cases hn

/-- A command is under way, no word waits to be run by itself, and the host waits. -/
structure Alone (s : State) : Prop where
  noWord : s.issueWord = none
  noHost : s.inbox = []
  busy : s.busy = true

theorem JustStarted.toAlone {s : State} (h : JustStarted s) : Alone s := ⟨h.consistent.noIssue, h.alone, h.busy⟩

theorem Alone.of_sameControl {s t : State} (h : Alone s) (hc : SameControl s t) : Alone t :=
  ⟨hc.issueWord.trans h.noWord, hc.inbox.trans h.noHost, hc.busy.trans h.busy⟩

/-- Each step is the micro-operation that the phase selects (46_commands_sequencer.md R210). -/
theorem Alone.step_eq {s : State} (h : Alone s) {u : BitVec 5} {i : Instr} (hu : issued s = some u)
    (hd : decode (.uop u) = .ok i) : step s = exec i s := by
  simp only [step, stepOnce, h.noWord, nextTurn, h.noHost, controllerTurn, h.busy, hu, hd, runDecoded, if_true]

/-! ## Byte strings read from a space -/

theorem Memory.drop_read (m : Memory) (sp : Space) (a n k : Nat) :
    (m.read sp a n).drop k = m.read sp (a + k) (n - k) := by
  refine List.ext_getElem (by simp [Memory.read_length]) fun i h1 h2 => ?_
  simp only [List.getElem_drop, Memory.getElem_read, Nat.add_assoc]

theorem Memory.take_read (m : Memory) (sp : Space) (a n k : Nat) (h : k ≤ n) :
    (m.read sp a n).take k = m.read sp a k := by
  refine List.ext_getElem (by simp [Memory.read_length, h]) fun i h1 h2 => ?_
  simp only [List.getElem_take, Memory.getElem_read]

/-- `n` whole blocks of a space from block `i` on, counted from 0. -/
def blocksFrom (m : Memory) (sp : Space) (i n : Nat) : List Block :=
  (List.range' i n).map fun j => m.loadBlock sp (16 * j)

theorem blocksFrom_succ (m : Memory) (sp : Space) (i n : Nat) :
    blocksFrom m sp i (n + 1) = m.loadBlock sp (16 * i) :: blocksFrom m sp (i + 1) n := by
  rw [blocksFrom, List.range'_succ, List.map_cons, blocksFrom]

theorem wholeBlocks_read (m : Memory) (sp : Space) {n len : Nat} (h : 16 * n ≤ len) :
    wholeBlocks (m.read sp 0 len) n = blocksFrom m sp 0 n := by
  rw [wholeBlocks, blocksFrom, List.range_eq_range']
  refine List.map_congr_left fun i hi => ?_
  have hlt : i < n := by simpa using hi
  rw [m.drop_read, m.take_read _ _ _ _ (by omega), Nat.zero_add, Memory.loadBlock]

/-! ## The associated data (42_ad_mac.md R131, R132, R134) -/

/-- `AD_MAC` of the bytes in AD, in the accesses the MAC steps make. -/
theorem adMac_read (c : Setup) (rke : Sched) (l seed : Block) (m : Memory) (n : Nat) :
    adMac c rke l seed (m.read .ad 0 n) =
      if n = 0 then c.bcEnc rke (seed ^^^ tpl l)
      else
        let r := (blocksFrom m .ad 0 (n / 16)).foldl (adBlock c rke) (tpl l, c.bcEnc rke (seed ^^^ tpl l))
        r.2 ^^^ c.bcEnc rke (m.loadPartial .ad (16 * (n / 16)) (n % 16) ^^^ sep r.1) := by
  have hmod : n - 16 * (n / 16) = n % 16 := by omega
  simp only [adMac, m.read_length, wholeBlocks_read m .ad (show 16 * (n / 16) ≤ n by omega), m.drop_read, hmod,
    Nat.zero_add, Memory.loadPartial]

theorem adAddr_eq {i : Len} (h : 16 * i.toNat < 2 ^ 64) : adAddr i = 16 * i.toNat := by
  unfold adAddr
  bv_omega

/-- What the MAC steps leave: the registers but `DA`, `V` and `AIDX` are untouched. -/
def macState (s : State) (r : Block × Block) (aidx : Len) (p : Phase) : State :=
  { s with work := { s.work with da := r.1, v := r.2, aidx := aidx }, phase := p }

theorem Alone.macState {s : State} (h : Alone s) (r : Block × Block) (aidx : Len) (p : Phase) :
    Alone (macState s r aidx p) := h.of_sameControl ((SameControl.refl s).update _ _ _)

theorem macState_aidx (s : State) (r : Block × Block) (aidx : Len) (p : Phase) :
    (macState s r aidx p).work.aidx = aidx := rfl

theorem macState_afull (s : State) (r : Block × Block) (aidx : Len) (p : Phase) :
    (macState s r aidx p).afull = s.afull := State.afull_congr rfl

/-- One full block. -/
theorem macFull_step {s : State} (h : Alone s) (hp : s.phase = .macFull) (hlt : s.work.aidx.toNat < s.afull) :
    step s = .next (macState s (adBlock Config.chip s.work.rke (s.work.da, s.work.v)
      (s.mem.loadBlock .ad (16 * s.work.aidx.toNat))) (s.work.aidx + 1#64)
      (if s.work.aidx.toNat + 1 < s.afull then .macFull else .macFinal)) := by
  have hadlen := s.latch.adlen.isLt
  have hafull : 16 * s.afull ≤ s.latch.adlen.toNat := Nat.mul_div_le _ _
  have haddr := adAddr_eq (i := s.work.aidx) (by omega)
  have hsucc : (s.work.aidx + 1#64).toNat = s.work.aidx.toNat + 1 := toNat_add_of_lt (n := 1) (by omega)
  have hstep : step s = exec .macFull s := h.step_eq (by rw [issued, hp]) rfl
  have hgo := macFullStep_of_le Config.chip (s := s) (by omega)
  rw [hsucc, haddr] at hgo
  exact hstep.trans (congrArg Flow.finish hgo)

/-- The full blocks from `AIDX` on. -/
theorem macFull_reaches (n : Nat) {s : State} (h : Alone s) (hp : s.phase = .macFull)
    (hn : s.work.aidx.toNat + (n + 1) = s.afull) :
    ∃ aidx, Reaches s (macState s ((blocksFrom s.mem .ad s.work.aidx.toNat (n + 1)).foldl
      (adBlock Config.chip s.work.rke) (s.work.da, s.work.v)) aidx .macFinal) := by
  induction n generalizing s with
  | zero =>
    have hstep := macFull_step h hp (by omega)
    rw [if_neg (by omega)] at hstep
    exact ⟨_, .of_step hstep⟩
  | succ n ih =>
    have hstep := macFull_step h hp (by omega)
    have hafull : 16 * s.afull ≤ s.latch.adlen.toNat := Nat.mul_div_le _ _
    have hadlen := s.latch.adlen.isLt
    have hsucc : (s.work.aidx + 1#64).toNat = s.work.aidx.toNat + 1 := toNat_add_of_lt (n := 1) (by omega)
    rw [if_pos (by omega)] at hstep
    have hrest : (macState s (adBlock Config.chip s.work.rke (s.work.da, s.work.v)
        (s.mem.loadBlock .ad (16 * s.work.aidx.toNat))) (s.work.aidx + 1#64) .macFull).work.aidx.toNat + (n + 1) =
        s.afull := by
      rw [macState_aidx, hsucc]
      omega
    obtain ⟨aidx, hr⟩ := ih (h.macState _ _ _) rfl hrest
    rw [macState_aidx, hsucc] at hr
    rw [blocksFrom_succ, List.foldl_cons]
    exact ⟨aidx, .head hstep hr⟩

theorem macSeed_step {s : State} (h : Alone s) (hp : s.phase = .macSeed) :
    step s = .next (macState s (s.work.da, Config.chip.bcEnc s.work.rke (s.work.seed ^^^ s.work.da)) s.work.aidx
      (if s.latch.adlen.toNat = 0 then .macDone else if s.afull = 0 then .macFinal else .macFull)) := by
  have hstep : step s = exec .macSeed s := h.step_eq (by rw [issued, hp]) rfl
  exact hstep.trans (congrArg Flow.finish (macSeedStep_eq Config.chip s))

theorem macFinal_step {s : State} (h : Alone s) (r : Block × Block) (aidx : Len) :
    step (macState s r aidx .macFinal) = .next (macState s (sep r.1, r.2 ^^^ Config.chip.bcEnc s.work.rke
      (s.mem.loadPartial .ad (16 * s.afull) s.arlen ^^^ sep r.1)) aidx .macDone) := by
  have hstep : step (macState s r aidx .macFinal) = exec .macFinal (macState s r aidx .macFinal) :=
    (h.macState r aidx .macFinal).step_eq (u := 5#5) rfl rfl
  have hend := macFinalStep_eq Config.chip (macState s r aidx .macFinal)
  rw [macState_afull, State.arlen_congr (s := s) (by rfl)] at hend
  exact hstep.trans (congrArg Flow.finish hend)

/-- The full blocks of the associated data from the seed's value on, if there are any. -/
theorem macBlocks_reaches {s : State} (h : Alone s) (hp : s.phase = .macSeed) (haidx : s.work.aidx = 0#64)
    (hne : s.latch.adlen.toNat ≠ 0) :
    ∃ aidx, Reaches s (macState s ((blocksFrom s.mem .ad 0 s.afull).foldl (adBlock Config.chip s.work.rke)
      (s.work.da, Config.chip.bcEnc s.work.rke (s.work.seed ^^^ s.work.da))) aidx .macFinal) := by
  have hstep := macSeed_step h hp
  rw [if_neg hne] at hstep
  cases hn : s.afull with
  | zero =>
    rw [if_pos hn] at hstep
    exact ⟨_, .of_step hstep⟩
  | succ n =>
    rw [if_neg (by omega), haidx] at hstep
    obtain ⟨aidx, hr⟩ := macFull_reaches n (h.macState (s.work.da, Config.chip.bcEnc s.work.rke
      (s.work.seed ^^^ s.work.da)) 0#64 .macFull) rfl (by rw [macState_afull, hn, macState_aidx]; exact Nat.zero_add _)
    exact ⟨aidx, .head hstep hr⟩

/-- R134: the MAC steps compute `AD_MAC` of the bytes in AD. -/
theorem mac_reaches {s : State} (h : Alone s) (hp : s.phase = .macSeed) (hda : s.work.da = tpl s.work.l)
    (haidx : s.work.aidx = 0#64) :
    ∃ da aidx, Reaches s (macState s (da, adMac Config.chip s.work.rke s.work.l s.work.seed
      (s.mem.read .ad 0 s.latch.adlen.toNat)) aidx .macDone) := by
  rw [adMac_read]
  by_cases hzero : s.latch.adlen.toNat = 0
  · have hstep := macSeed_step h hp
    rw [if_pos hzero, hda] at hstep
    rw [if_pos hzero]
    exact ⟨_, _, .of_step hstep⟩
  · obtain ⟨aidx, hr⟩ := macBlocks_reaches h hp haidx hzero
    rw [if_neg hzero, ← hda]
    exact ⟨_, _, hr.trans (.of_step (macFinal_step h _ aidx))⟩

/-! ## The start of the message -/

/-- The chain that the working registers hold. -/
def State.chain (s : State) : Chain := ⟨s.work.dm, s.work.dc, s.work.w, s.work.cs⟩

/-- `t` is the state of the command of `s` in which its message starts. -/
structure MsgStart (s t : State) : Prop where
  alone : Alone t
  latch : t.latch = s.latch
  mem : t.mem = s.mem
  rke : t.work.rke = Config.chip.ksEnc (s.mem.loadBlock .key 0)
  rkd : s.dec = true → t.work.rkd = Config.chip.ksDec (Config.chip.ksEnc (s.mem.loadBlock .key 0))
  chain : t.chain = startChain Config.chip s.periodic (Config.chip.ksEnc (s.mem.loadBlock .key 0))
    (s.mem.read .nonce 0 8) (s.mem.read .ad 0 s.latch.adlen.toNat)
  idx : t.work.idx = 1#64
  tagpos : t.work.tagpos = 0#64
  phase : t.phase = msgPhase 1#64 t

/-- What the MAC steps find of INIT (40_gf_offset.md R105). -/
structure InitEnd (s t : State) : Prop where
  alone : Alone t
  latch : t.latch = s.latch
  mem : t.mem = s.mem
  rke : t.work.rke = Config.chip.ksEnc (s.mem.loadBlock .key 0)
  rkd : s.dec = true → t.work.rkd = Config.chip.ksDec (Config.chip.ksEnc (s.mem.loadBlock .key 0))
  l : t.work.l = Config.chip.bcEnc (Config.chip.ksEnc (s.mem.loadBlock .key 0)) zeroBlock
  seed : t.work.seed = seedBlock Config.chip s
  dm : t.work.dm = t.work.l
  dc : t.work.dc = tpl t.work.l
  da : t.work.da = tpl t.work.l
  cs : t.work.cs = zeroBlock
  aidx : t.work.aidx = 0#64
  idx : t.work.idx = 1#64
  tagpos : t.work.tagpos = 0#64
  phase : t.phase = .macSeed

theorem init_step {s : State} (h : Alone s) (hp : s.phase = .init) : ∃ t, step s = .next t ∧ InitEnd s t :=
  ⟨_, h.step_eq (i := .init) (by rw [issued, hp]) rfl, ⟨h.noWord, h.noHost, h.busy⟩, rfl, rfl, rfl,
    fun hd => if_pos hd, rfl, rfl, rfl, rfl, rfl, rfl, rfl, rfl, rfl, rfl⟩

theorem macDone_step {s : State} (h : Alone s) (r : Block × Block) (aidx : Len) :
    step (macState s r aidx .macDone) = .next { macState s r aidx (if 1 ≤ s.nnf then .msg else .finOfs) with
      work := { (macState s r aidx .macDone).work with w := r.2 } } := by
  have hstep : step (macState s r aidx .macDone) = exec .macDone (macState s r aidx .macDone) :=
    (h.macState r aidx .macDone).step_eq (u := 6#5) rfl rfl
  have hend := macDoneStep_eq (macState s r aidx .macDone)
  rw [State.nnf_congr (s := s) (by rfl)] at hend
  exact hstep.trans (congrArg Flow.finish hend)

/-- From INIT on, the chain is the one of 42_ad_mac.md R133. -/
theorem msgStart_of_init {s : State} (h : Alone s) (hp : s.phase = .init) : ∃ t, Reaches s t ∧ MsgStart s t := by
  obtain ⟨u, hu, hinit⟩ := init_step h hp
  obtain ⟨da, aidx, hmac⟩ := mac_reaches hinit.alone hinit.phase hinit.da hinit.aidx
  have hdone := macDone_step hinit.alone (da, adMac Config.chip u.work.rke u.work.l u.work.seed
      (u.mem.read .ad 0 u.latch.adlen.toNat)) aidx
  refine ⟨_, .head hu (hmac.trans (.of_step hdone)), ?_⟩
  exact {
    alone := hinit.alone.of_sameControl ((SameControl.refl u).update _ _ _)
    latch := hinit.latch
    mem := hinit.mem
    rke := hinit.rke
    rkd := hinit.rkd
    chain := by
      simp only [State.chain, macState, startChain, hinit.dm, hinit.dc, hinit.cs, hinit.rke, hinit.l, hinit.seed,
        hinit.mem, hinit.latch, seedBlock]
    idx := hinit.idx
    tagpos := hinit.tagpos
    phase := by
      rw [msgPhase, State.nnf_congr (s := u) (by rfl)]
      rfl }

/-- R211: a ciphertext stream shorter than a tag ends the command; every other message starts. -/
theorem chkLen_step {s : State} (h : JustStarted s) :
    step s = if s.dec = true ∧ s.latch.inlen.toNat < 16 then .next (haltWith .invalidLength s)
      else .next { s with phase := .init } := by
  have hstep : step s = exec .chkLen s := h.toAlone.step_eq (by rw [issued, h.check]) rfl
  have hshort : lengthTooShort s = true ↔ s.dec = true ∧ s.latch.inlen.toNat < 16 := by simp [lengthTooShort]
  have hexec : exec .chkLen s = (chkLenStep s).finish := rfl
  rw [hstep, hexec, chkLenStep]
  simp only [hshort]
  split_ifs <;> rfl

/-- A command that passes CHK.LEN comes to the start of its message. -/
theorem msgStart_of_started {s : State} (h : JustStarted s) (hlen : s.dec = true → 16 ≤ s.latch.inlen.toNat) :
    ∃ t, Reaches s t ∧ MsgStart s t := by
  have hchk := chkLen_step h
  rw [if_neg (by rintro ⟨hd, hlt⟩; exact absurd (hlen hd) (by omega))] at hchk
  have halone : Alone { s with phase := .init } := h.toAlone.of_sameControl ((SameControl.refl s).update _ _ _)
  obtain ⟨t, ht, hstart⟩ := msgStart_of_init halone rfl
  exact ⟨t, .head hchk ht, ⟨hstart.alone, hstart.latch, hstart.mem, hstart.rke, hstart.rkd, hstart.chain, hstart.idx,
    hstart.tagpos, hstart.phase⟩⟩

end Sys2Proof.Machine
end

section
/-! PROOFS of the family 43_colm0.md, fifth part: the encrypt commands against the whole encryption (R147, R166, R217,
R219, R221, R223). Between two steps of the message phase the state is the one in which the message started but for the
chain, the block counter and the two streams written so far; each block appends its part. -/

namespace Sys2Proof.Machine

/-! ## Two streams written from their start on -/

theorem Memory.write_append (m : Memory) (sp : Space) (a : Nat) (bs cs : List Byte) :
    m.write sp a (bs ++ cs) = (m.write sp a bs).write sp (a + bs.length) cs := by
  induction bs generalizing m a with
  | nil => rfl
  | cons b bs ih =>
    rw [List.cons_append, Memory.write, Memory.write, ih, List.length_cons, Nat.add_right_comm, Nat.add_assoc]

theorem storeBlock_sixteen (m : Memory) (sp : Space) (a : Nat) (x : Block) :
    m.storeBlock sp a x 16 = m.write sp a (bytesOfBlock x) := by
  rw [Memory.storeBlock, List.take_of_length_le (bytesOfBlock_length x).le]

/-- Two results one after the other. -/
def ChainOut.append (a b : ChainOut) : ChainOut := ⟨a.out ++ b.out, a.tags ++ b.tags, b.chain⟩

theorem ChainOut.append_assoc (a b d : ChainOut) : (a.append b).append d = a.append (b.append d) := by
  simp [ChainOut.append]

/-- The memory with the two streams in OUT and TAGOUT. -/
def streams (m : Memory) (out tags : List Byte) : Memory := (m.write .out 0 out).write .tagOut 0 tags

/-- The streams go on: first in TAGOUT, then in OUT, as the micro-operations store. -/
theorem streams_append (m : Memory) (out tags out' tags' : List Byte) :
    streams m (out ++ out') (tags ++ tags') =
      ((streams m out tags).write .tagOut tags.length tags').write .out out.length out' := by
  have hcomm (m : Memory) (i j : Nat) (xs ys : List Byte) :
      (m.write .tagOut i xs).write .out j ys = (m.write .out j ys).write .tagOut i xs :=
    m.write_comm Space.noConfusion i j xs ys
  rw [streams, streams, Memory.write_append, Memory.write_append, Nat.zero_add, Nat.zero_add, hcomm, hcomm]

theorem streams_buf (m : Memory) (out tags : List Byte) {sp : Space} (hout : sp ≠ .out) (htag : sp ≠ .tagOut) :
    (streams m out tags).buf sp = m.buf sp := by
  rw [streams, Memory.buf_write_of_ne _ htag, Memory.buf_write_of_ne _ hout]

/-! ## The state between two blocks -/

/-- The state `u` with the chain and the memory before block `i`. -/
def blockState (u : State) (i : Nat) (ch : Chain) (m : Memory) (p : Phase) : State :=
  { u with
    work := { u.work with
      dm := ch.dm
      dc := ch.dc
      w := ch.w
      cs := ch.cs
      idx := BitVec.ofNat 64 i
      tagpos := BitVec.ofNat 64 (tagBytesUpTo u.periodic i) }
    mem := m
    phase := p }

section BlockState

variable {u : State} {i : Nat} {ch : Chain} {m : Memory} {p : Phase}

theorem blockState_sameControl : SameControl u (blockState u i ch m p) := (SameControl.refl u).update _ _ _

theorem Alone.blockState (h : Alone u) : Alone (blockState u i ch m p) := h.of_sameControl blockState_sameControl

theorem State.nblk_lt (s : State) : s.nblk + 1 < 2 ^ 64 := by
  have hmlen := s.mlen_lt
  rw [State.nblk]
  omega

theorem blockState_idx (hle : i ≤ u.nblk + 1) : (blockState u i ch m p).work.idx.toNat = i := by
  rw [blockState, BitVec.toNat_ofNat, Nat.mod_eq_of_lt (hle.trans_lt u.nblk_lt)]

theorem blockState_idx_succ : (blockState u i ch m p).work.idx + 1#64 = BitVec.ofNat 64 (i + 1) :=
  (BitVec.ofNat_add i 1).symm

theorem tagBytesUpTo_lt (u : State) (hpos : 1 ≤ i) (hle : i ≤ u.nblk + 1) : tagBytesUpTo u.periodic i < 2 ^ 64 := by
  have hroom := tagBytesBefore_succ_le (s := u) (i := i - 1) (by omega)
  rw [Nat.sub_add_cancel hpos] at hroom
  exact hroom.trans_lt u.tagOut_size_lt

theorem blockState_tagpos (hpos : 1 ≤ i) (hle : i ≤ u.nblk + 1) :
    (blockState u i ch m p).work.tagpos.toNat = tagBytesUpTo u.periodic i := by
  rw [blockState, BitVec.toNat_ofNat, Nat.mod_eq_of_lt (tagBytesUpTo_lt u hpos hle)]

theorem blockState_cadence (hle : i ≤ u.nblk + 1) :
    (blockState u i ch m p).cadence (blockState u i ch m p).work.idx = (u.periodic && i % 127 == 0) := by
  rw [State.cadence, blockState_idx hle, State.periodic_congr (s := u) (by rfl)]

theorem tagBytesUpTo_succ (periodic : Bool) (hpos : 1 ≤ i) :
    tagBytesUpTo periodic (i + 1) =
      if (periodic && i % 127 == 0) = true then tagBytesUpTo periodic i + 16 else tagBytesUpTo periodic i := by
  cases periodic with
  | false => rfl
  | true =>
    simp only [tagBytesUpTo, Bool.true_and, beq_iff_eq, if_true]
    split_ifs <;> omega

/-- `TAGPOS` goes on with the tag of block `i`, if there is one. -/
theorem blockState_tagpos_succ (hpos : 1 ≤ i) :
    (if (u.periodic && i % 127 == 0) = true then (blockState u i ch m p).work.tagpos + 16#64
      else (blockState u i ch m p).work.tagpos) = BitVec.ofNat 64 (tagBytesUpTo u.periodic (i + 1)) := by
  rw [tagBytesUpTo_succ u.periodic hpos]
  split_ifs
  · exact (BitVec.ofNat_add _ 16).symm
  · rfl

theorem blockState_nnf : (blockState u i ch m p).nnf = u.nnf := State.nnf_congr rfl

theorem blockState_atMsg (hz : Sized u) (hpos : 1 ≤ i) (hle : i ≤ u.nnf) : AtMsg (blockState u i ch m p) := by
  have hblk : i ≤ u.nblk := hle.trans (Nat.sub_le _ _)
  have hidx : (blockState u i ch m p).work.idx.toNat = i := blockState_idx (by omega)
  exact {
    sized := hz.congr rfl
    pos := by rw [hidx]; exact hpos
    le := by rw [hidx]; exact hle
    tagpos := by rw [hidx, blockState_tagpos hpos (by omega)]; rfl }

theorem blockState_atFinal (hz : Sized u) (hne : 0 < u.nblk) : AtFinal (blockState u (u.nnf + 1) ch m p) := by
  have hblk : u.nnf + 1 = u.nblk := Nat.sub_add_cancel hne
  have hidx : (blockState u (u.nnf + 1) ch m p).work.idx.toNat = u.nnf + 1 := blockState_idx (by omega)
  exact {
    sized := hz.congr rfl
    nonempty := by rw [State.nblk_congr (s := u) (by rfl)]; exact hne
    idx := by rw [hidx, blockState_nnf]
    tagpos := by rw [hidx, blockState_tagpos (by omega) (by omega)]; rfl }

theorem blockState_inGroup_le (h : InGroup (blockState u i ch m p)) (hle : i ≤ u.nnf) : i + 2 ≤ u.nnf := by
  have hidx : (blockState u i ch m p).work.idx.toNat = i :=
    blockState_idx (hle.trans ((Nat.sub_le _ _).trans (Nat.le_succ _)))
  have hgroup := h.le
  rwa [hidx, blockState_nnf] at hgroup

theorem blockState_blockAddr (hpos : 1 ≤ i) (hle : i ≤ u.nnf) :
    blockAddr (blockState u i ch m p).work.idx = 16 * (i - 1) := by
  have hlt := u.nnf_lt
  have hblk : u.nnf ≤ u.nblk := Nat.sub_le _ _
  have hidx : (blockState u i ch m p).work.idx.toNat = i := blockState_idx (by omega)
  rw [blockAddr_eq (by omega) (by omega), hidx]

/-- FIN.OFS is the step to the offsets of the final stage. -/
theorem finOfsStep_blockState :
    finOfsStep (blockState u i ch m p) =
      .go (blockState u i (ch.final (u.mlen % 16)) m (if u.nblk = 0 then .tag else .final)) := by
  rw [finOfsStep_eq, State.mlen_congr (s := u) (by rfl), State.nblk_congr (s := u) (by rfl)]
  by_cases h : u.mlen % 16 = 0
  · simp only [Chain.final, h, if_true, lt_irrefl, if_false]
    rfl
  · simp only [Chain.final, h, Nat.pos_of_ne_zero h, if_true, if_false]
    rfl

end BlockState

/-! ## One block encrypted -/

/-- The state before block `i` of an encryption that has given `o` so far. -/
def encAt (u : State) (i : Nat) (o : ChainOut) (p : Phase) : State :=
  blockState u i o.chain (streams u.mem o.out o.tags) p

/-- As many bytes have been written as the blocks before block `i` give. -/
structure Reached (periodic : Bool) (i : Nat) (o : ChainOut) : Prop where
  pos : 1 ≤ i
  out : o.out.length = 16 * (i - 1)
  tags : o.tags.length = tagBytesUpTo periodic i

/-- What is given once block `i` is encrypted on the chain `ch`. -/
def encNext (c : Setup) (u : State) (i : Nat) (o : ChainOut) (ch : Chain) (x : Block) : ChainOut :=
  o.append (ch.encryptAt c u.work.rke u.periodic i x)

theorem Reached.encNext {c : Setup} {u : State} {i : Nat} {o : ChainOut} (h : Reached u.periodic i o) (ch : Chain)
    (x : Block) : Reached u.periodic (i + 1) (encNext c u i o ch x) where
  pos := Nat.le_add_left 1 i
  out := by
    have hpos := h.pos
    rw [Machine.encNext, ChainOut.append, List.length_append, Chain.encryptAt_out_length, h.out]
    omega
  tags := by
    rw [Machine.encNext, ChainOut.append, List.length_append, h.tags, Chain.encryptAt_tags_length _ _ _ _ h.pos]

/-- The two stores of an encryption step append to the two streams. -/
theorem tagStored_streams (c : Setup) {t : State} {m : Memory} {out tags : List Byte} (hm : t.mem = streams m out tags)
    (ht : t.work.tagpos.toNat = tags.length) {a : Nat} (ha : a = out.length) (j : Len) (dc x : Block) :
    (tagStored c j dc t).storeBlock .out a x 16 =
      streams m (out ++ bytesOfBlock x) (tags ++ if t.cadence j then bytesOfBlock (itagValue c dc t) else []) := by
  rw [streams_append, storeBlock_sixteen, tagStored, ha, ht, hm]
  split_ifs
  · rw [storeBlock_sixteen]
  · rfl

theorem Chain.encryptAt_eq (c : Setup) (rke : Sched) (periodic : Bool) (ch : Chain) (i : Nat) (p : Block) :
    ch.encryptAt c rke periodic i p =
      let cad := periodic && i % 127 == 0
      let dc := if cad then dbl ch.dc else ch.dc
      let r := rho (c.bcEnc rke (p ^^^ ch.dm)) ch.w
      ⟨bytesOfBlock (c.bcEnc rke r.1 ^^^ dc), if cad then bytesOfBlock (c.bcEnc rke ch.w ^^^ dbl ch.dc) else [],
        ⟨ch.dm, dc, r.2, ch.cs ^^^ p⟩⟩ := by
  cases hc : periodic && i % 127 == 0 with
  | false => simp only [Chain.encryptAt, Chain.itag, Chain.cadence, Chain.encrypt, hc, Bool.false_eq_true, if_false]
  | true => simp only [Chain.encryptAt, Chain.itag, Chain.cadence, Chain.encrypt, hc, if_true]

theorem Memory.read_buf_congr {m m' : Memory} {sp : Space} (h : m'.buf sp = m.buf sp) (a n : Nat) :
    m'.read sp a n = m.read sp a n := Memory.read_congr fun _ _ _ => Memory.readByte_congr h _

theorem finalPlain_congr {s t : State} (hl : t.latch = s.latch) (hb : t.mem.buf .input = s.mem.buf .input) :
    finalPlain t = finalPlain s := by
  simp only [finalPlain, Memory.loadBlock, Memory.loadPartial, Memory.read_buf_congr hb, State.rlen_congr hl,
    State.nnf_congr hl]

section EncAt

variable (c : Setup) {u : State} {i : Nat} {o : ChainOut} (p : Phase)

theorem encAt_input : (encAt u i o p).mem.buf .input = u.mem.buf .input :=
  streams_buf _ _ _ Space.noConfusion Space.noConfusion

theorem encAt_tagpos (h : Reached u.periodic i o) (hle : i ≤ u.nblk) :
    (encAt u i o p).work.tagpos.toNat = o.tags.length :=
  (blockState_tagpos h.pos (hle.trans (Nat.le_succ _))).trans h.tags.symm

theorem blkEncEnd_encAt (h : Reached u.periodic i o) (hle : i ≤ u.nnf) :
    blkEncEnd c (encAt u i o p) =
      encAt u (i + 1) (encNext c u i o (o.chain.offsets dbl) (u.mem.loadBlock .input (16 * (i - 1))))
        (msgPhase (BitVec.ofNat 64 (i + 1)) u) := by
  have hblk : i ≤ u.nblk := hle.trans (Nat.sub_le _ _)
  have hload := Memory.loadBlock_congr (encAt_input p (u := u) (i := i) (o := o)) (16 * (i - 1))
  have hmem := tagStored_streams c (t := encAt u i o p) rfl (encAt_tagpos p h hblk) h.out.symm
  dsimp only [blkEncEnd]
  unfold encAt at *
  rw [blockState_blockAddr h.pos hle, hload, hmem, blockState_idx_succ,
    blockState_cadence (hblk.trans (Nat.le_succ _)), blockState_nnf, blockState_tagpos_succ h.pos]
  simp only [encNext, Chain.encryptAt_eq, Chain.offsets, ChainOut.append, blockState, msgPhase, itagValue, encipher]

theorem finEncEnd_encAt (hne : 0 < u.nblk) (h : Reached u.periodic (u.nnf + 1) o) :
    finEncEnd c (encAt u (u.nnf + 1) o p) =
      encAt u (u.nnf + 2) (encNext c u (u.nnf + 1) o o.chain (finalPlain u)) .tag := by
  have hblk : u.nnf + 1 ≤ u.nblk := (Nat.sub_add_cancel hne).le
  have hout : 16 * u.nnf = o.out.length := by rw [h.out, Nat.add_sub_cancel]
  have hplain : finalPlain (encAt u (u.nnf + 1) o p) = finalPlain u := finalPlain_congr rfl (encAt_input p)
  have hmem := tagStored_streams c (t := encAt u (u.nnf + 1) o p) rfl (encAt_tagpos p h hblk) hout
  dsimp only [finEncEnd]
  rw [hplain]
  unfold encAt at *
  rw [blockState_nnf, hmem, blockState_idx_succ, blockState_cadence (hblk.trans (Nat.le_succ _)),
    blockState_tagpos_succ h.pos]
  simp only [encNext, Chain.encryptAt_eq, ChainOut.append, blockState, itagValue, encipher]

/-! ## The message encrypted -/

/-- What is given once the non-final block `i` is encrypted. -/
def encBlockAt (c : Setup) (u : State) (i : Nat) (o : ChainOut) : ChainOut :=
  encNext c u i o (o.chain.offsets dbl) (u.mem.loadBlock .input (16 * (i - 1)))

/-- What is given once `n` non-final blocks from block `i` on are encrypted. -/
def encBlocksAt (c : Setup) (u : State) (i : Nat) (o : ChainOut) (n : Nat) : ChainOut :=
  o.append (encryptBlocks c u.work.rke u.periodic i o.chain (blocksFrom u.mem .input (i - 1) n))

theorem encBlocksAt_zero : encBlocksAt c u i o 0 = o := by
  simp [encBlocksAt, blocksFrom, encryptBlocks, ChainOut.append]

theorem encBlocksAt_succ (hpos : 1 ≤ i) (n : Nat) :
    encBlocksAt c u i o (n + 1) = encBlocksAt c u (i + 1) (encBlockAt c u i o) n := by
  have hi : i - 1 + 1 = i + 1 - 1 := by omega
  rw [encBlocksAt, encBlocksAt, blocksFrom_succ, encryptBlocks_cons, encBlockAt, encNext, ChainOut.append_assoc, hi]
  rfl

end EncAt

/-- The state of an encryption in the phase of block `i`. -/
def encMsg (u : State) (i : Nat) (o : ChainOut) : State := encAt u i o (msgPhase (BitVec.ofNat 64 i) u)

theorem msgPhase_of_le {u : State} {i : Nat} (hle : i ≤ u.nnf) : msgPhase (BitVec.ofNat 64 i) u = .msg := by
  have hlt := u.nnf_lt
  rw [msgPhase, BitVec.toNat_ofNat, Nat.mod_eq_of_lt (by omega), if_pos hle]

theorem msgPhase_last (u : State) : msgPhase (BitVec.ofNat 64 (u.nnf + 1)) u = .finOfs := by
  have hlt := u.nnf_lt
  rw [msgPhase, BitVec.toNat_ofNat, Nat.mod_eq_of_lt (by omega), if_neg (by omega)]

theorem Reached.encBlockAt {u : State} {i : Nat} {o : ChainOut} (h : Reached u.periodic i o) :
    Reached u.periodic (i + 1) (encBlockAt Config.chip u i o) := h.encNext _ _

theorem Reached.encBlocksAt {u : State} (n : Nat) {i : Nat} {o : ChainOut} (h : Reached u.periodic i o) :
    Reached u.periodic (i + n) (encBlocksAt Config.chip u i o n) := by
  induction n generalizing i o with
  | zero => rwa [encBlocksAt_zero]
  | succ n ih =>
    rw [encBlocksAt_succ _ h.pos, Nat.add_comm n 1, ← Nat.add_assoc]
    exact ih h.encBlockAt

/-- One micro-operation of the message phase: one block, or three of them for a wide command (R210, 45_batched3.md
R180). -/
theorem AtMsg.step_eq {t : State} (h : AtMsg t) (ht : Alone t) (hp : t.phase = .msg) :
    step t = exec (if t.dec then .blkDec else .blkEnc) t ∨
      InGroup t ∧ step t = exec (if t.dec then .b3Dec else .b3Enc) t := by
  have hissued : issued t = some (msgWord t) := by rw [issued, hp]
  unfold msgWord at hissued
  by_cases hg : (t.wide && t.groupReady) = true
  · rw [if_pos hg] at hissued
    refine .inr ⟨h.inGroup (Bool.and_eq_true_iff.mp hg).2, ht.step_eq hissued ?_⟩
    cases t.dec <;> rfl
  · rw [if_neg hg] at hissued
    refine .inl (ht.step_eq hissued ?_)
    cases t.dec <;> rfl

section EncRun

variable {u : State} (hu : Alone u) (hz : Sized u) (hd : u.dec = false) {i : Nat} {o : ChainOut}

theorem blkEncEnd_encMsg (h : Reached u.periodic i o) (hle : i ≤ u.nnf) :
    blkEncEnd Config.chip (encMsg u i o) = encMsg u (i + 1) (encBlockAt Config.chip u i o) :=
  blkEncEnd_encAt Config.chip _ h hle

include hu hz hd

theorem encMsg_step (h : Reached u.periodic i o) (hle : i ≤ u.nnf) :
    let t := encMsg u i o
    let E := blkEncEnd Config.chip
    step t = .next (E t) ∨ i + 2 ≤ u.nnf ∧ step t = .next (E (E (E t))) := by
  intro t E
  have hat : AtMsg t := blockState_atMsg hz h.pos hle
  have hdec : t.dec = false := (State.dec_congr (s := u) rfl).trans hd
  have hstep := hat.step_eq hu.blockState (msgPhase_of_le hle)
  rw [hdec] at hstep
  obtain hone | ⟨hgroup, hthree⟩ := hstep
  · exact .inl (hone.trans (congrArg Flow.finish (hat.blkEncStep_eq Config.chip)))
  · exact .inr ⟨blockState_inGroup_le hgroup hle,
      hthree.trans (congrArg Flow.finish (b3EncStep_of_group Config.chip hat hgroup))⟩

/-- All non-final blocks from block `i` on. -/
theorem encMsg_reaches (n : Nat) (h : Reached u.periodic i o) (hn : i + n = u.nnf + 1) :
    Reaches (encMsg u i o) (encMsg u (u.nnf + 1) (encBlocksAt Config.chip u i o n)) := by
  induction n using Nat.strong_induction_on generalizing i o with
  | _ n ih =>
    cases n with
    | zero =>
      rw [encBlocksAt_zero, ← hn]
      exact .refl _
    | succ n =>
      have h1 := h.encBlockAt
      have hend := blkEncEnd_encMsg h (by omega)
      rw [encBlocksAt_succ _ h.pos]
      obtain hstep | ⟨hle, hstep⟩ := encMsg_step hu hz hd h (by omega)
      · exact .head (hstep.trans (congrArg _ hend)) (ih n (by omega) h1 (by omega))
      · obtain ⟨k, rfl⟩ : ∃ k, n = k + 2 := ⟨n - 2, by omega⟩
        have h2 := h1.encBlockAt
        rw [hend, blkEncEnd_encMsg h1 (by omega), blkEncEnd_encMsg h2 (by omega)] at hstep
        rw [encBlocksAt_succ _ h1.pos, encBlocksAt_succ _ h2.pos]
        exact .head hstep (ih k (by omega) h2.encBlockAt (by omega))

end EncRun

/-! ## The end of an encryption -/

/-- The bytes HALT keeps: those of the two streams, if they are as long as it reports (46_commands_sequencer.md R205,
R212). -/
theorem haltWith_reads {v : State} {m : Memory} {out tags : List Byte} {st : Status} (hm : v.mem = streams m out tags)
    (hout : (haltOutlen st v).toNat = out.length) (htags : (haltTagoutlen st v).toNat = tags.length) :
    (haltWith st v).mem.read .out 0 (haltWith st v).outlen.toNat = out ∧
      (haltWith st v).mem.read .tagOut 0 (haltWith st v).tagoutlen.toNat = tags := by
  have hkept := haltWith_halted st v
  have hbuf : (streams m out tags).buf .out = (m.write .out 0 out).buf .out :=
    Memory.buf_write_of_ne _ (by decide) 0 tags
  have hcells : v.mem.out.cells = ((m.write .out 0 out).buf .out).cells := by
    rw [hm]
    exact congrArg Buffer.cells hbuf
  have htagCells : v.mem.tagOut.cells = ((streams m out tags).buf .tagOut).cells := by rw [hm]; rfl
  rw [hkept.outlen, hkept.tagoutlen, hout, htags]
  constructor
  · refine List.ext_getElem (Memory.read_length ..) fun j _ hj => ?_
    rw [Memory.getElem_read, Nat.zero_add]
    refine hkept.results j _ (by rw [hkept.outlen, hout]; exact hj) ?_
    rw [hcells, cellAt_write, dif_pos ⟨by omega, by omega⟩]
    rfl
  · refine List.ext_getElem (Memory.read_length ..) fun j _ hj => ?_
    rw [Memory.getElem_read, Nat.zero_add]
    refine hkept.tags j _ (by rw [hkept.tagoutlen, htags]; exact hj) ?_
    rw [htagCells, streams, cellAt_write, dif_pos ⟨by omega, by omega⟩]
    rfl

theorem AtFinal.finEncStep_eq (c : Setup) {s : State} (h : AtFinal s) (hd : s.dec = false) :
    finEncStep c s = .go (finEncEnd c s) := by
  have hend := State.final_end h.nonempty
  have hsize : s.spaceSize .out = s.mlen + 16 := by rw [h.sized.out, hd]; rfl
  have hlen : (if s.rlen = 0 then 16 else s.rlen) = s.tlen := rfl
  exact finEncStep_of_le c (by rw [hlen, hend]; exact h.sized.mlen_le_input) (final_fits hsize)
    ((AtBlock.of_tagpos h.tagpos).tagRoom h.pos h.le_nblk)

section EncEnd

variable {u : State} (hu : Alone u) (hz : Sized u) (hd : u.dec = false) {i : Nat} {o : ChainOut}

/-- What is given with the final stage, once the non-final blocks have given `o`. -/
def encFinal (c : Setup) (u : State) (o : ChainOut) : ChainOut :=
  let ch := o.chain.final (u.mlen % 16)
  if u.nblk = 0 then { o with chain := ch } else encNext c u (u.nnf + 1) o ch (finalPlain u)

theorem Reached.encFinal (h : Reached u.periodic (u.nnf + 1) o) :
    Reached u.periodic (u.nblk + 1) (encFinal Config.chip u o) := by
  unfold Machine.encFinal
  dsimp only
  split_ifs with hzero
  · rw [State.nnf, hzero] at h
    rw [hzero]
    exact ⟨h.pos, h.out, h.tags⟩
  · have hblk : u.nblk = u.nnf + 1 := (Nat.sub_add_cancel (Nat.pos_of_ne_zero hzero)).symm
    rw [hblk]
    exact h.encNext _ _

include hu in
theorem finOfs_step (ch : Chain) (m : Memory) :
    step (blockState u (u.nnf + 1) ch m (msgPhase (BitVec.ofNat 64 (u.nnf + 1)) u)) =
      .next (blockState u (u.nnf + 1) (ch.final (u.mlen % 16)) m (if u.nblk = 0 then .tag else .final)) := by
  rw [msgPhase_last]
  have halone : Alone (blockState u (u.nnf + 1) ch m .finOfs) := hu.blockState
  exact (halone.step_eq (u := 11#5) (i := .finOfs) rfl rfl).trans (congrArg Flow.finish finOfsStep_blockState)

include hu hz hd in
theorem encAt_final_step (hne : u.nblk ≠ 0) (h : Reached u.periodic (u.nnf + 1) o) :
    step (encAt u (u.nnf + 1) o .final) =
      .next (encAt u (u.nblk + 1) (encNext Config.chip u (u.nnf + 1) o o.chain (finalPlain u)) .tag) := by
  have hpos : 0 < u.nblk := Nat.pos_of_ne_zero hne
  have hblk : u.nblk = u.nnf + 1 := (Nat.sub_add_cancel hpos).symm
  have halone : Alone (encAt u (u.nnf + 1) o .final) := hu.blockState
  have hat : AtFinal (encAt u (u.nnf + 1) o .final) := blockState_atFinal hz hpos
  have hdec : (encAt u (u.nnf + 1) o .final).dec = false := (State.dec_congr (by rfl)).trans hd
  have hstep := halone.step_eq (u := 12#5) (i := .finEnc) (by rw [issued, hdec]; rfl) rfl
  have hend := (hat.finEncStep_eq Config.chip hdec).trans (congrArg Flow.go (finEncEnd_encAt Config.chip .final hpos h))
  rw [hblk]
  exact hstep.trans (congrArg Flow.finish hend)

include hu hz hd in
/-- The final stage up to the tag. -/
theorem encFinal_reaches (h : Reached u.periodic (u.nnf + 1) o) :
    Reaches (encMsg u (u.nnf + 1) o) (encAt u (u.nblk + 1) (encFinal Config.chip u o) .tag) := by
  have hofs : step (encMsg u (u.nnf + 1) o) = .next (encAt u (u.nnf + 1) { o with chain := o.chain.final (u.mlen % 16) }
      (if u.nblk = 0 then .tag else .final)) := finOfs_step hu o.chain (streams u.mem o.out o.tags)
  unfold encFinal
  by_cases hzero : u.nblk = 0
  · have hblk : u.nblk = u.nnf := by rw [State.nnf, hzero]
    rw [if_pos hzero] at hofs ⊢
    rw [hblk]
    exact .of_step hofs
  · rw [if_neg hzero] at hofs ⊢
    exact .head hofs (.of_step (encAt_final_step hu hz hd hzero ⟨h.pos, h.out, h.tags⟩))

include hu hz hd in
/-- R146: the tag's step ends the command with Success. -/
theorem encAt_tag_step (h : Reached u.periodic (u.nblk + 1) o) :
    ∃ v, step (encAt u (u.nblk + 1) o .tag) = .next (haltWith .success v) ∧ SameControl u v ∧
      v.mem = streams u.mem
        (o.out ++ (bytesOfBlock (o.chain.tagBlock Config.chip u.work.rke)).take (tagBytes u.mlen)) o.tags := by
  have halone : Alone (encAt u (u.nblk + 1) o .tag) := hu.blockState
  have hdec : (encAt u (u.nblk + 1) o .tag).dec = false := (State.dec_congr (by rfl)).trans hd
  have hsize : u.spaceSize .out = u.mlen + 16 := by rw [hz.out, hd]; rfl
  have hnblk : (encAt u (u.nblk + 1) o .tag).nblk = u.nblk := State.nblk_congr rfl
  have htlen : (encAt u (u.nblk + 1) o .tag).tlen = u.tlen := State.tlen_congr rfl
  have hroom : 16 * u.nblk + u.tlen ≤ u.spaceSize .out := by rw [u.tag_end, hsize]
  have hgen := tagGenStep_encrypt Config.chip hdec (by rw [hnblk, htlen]; exact hroom)
  refine ⟨_, (halone.step_eq (u := 16#5) rfl rfl).trans (congrArg Flow.finish hgen),
    (SameControl.refl u).update _ _ _, ?_⟩
  have hout := h.out
  rw [Nat.add_sub_cancel] at hout
  have happend := streams_append u.mem o.out o.tags
    ((bytesOfBlock (o.chain.tagBlock Config.chip u.work.rke)).take (tagBytes u.mlen)) []
  rw [List.append_nil, hout] at happend
  rw [hnblk, htlen, happend]
  rfl

end EncEnd

/-! ## The whole encryption -/

/-- The final block of the byte string in IN. -/
theorem finalBlock_read (u : State) (h : u.nblk ≠ 0) :
    finalBlock ((u.mem.read .input 0 u.mlen).drop (16 * u.nnf)) = finalPlain u := by
  have hend := State.final_end (Nat.pos_of_ne_zero h)
  have hlen : u.mlen - 16 * u.nnf = if u.rlen = 0 then 16 else u.rlen := by
    have htlen : u.tlen = if u.rlen = 0 then 16 else u.rlen := rfl
    omega
  have hr := u.rlen_lt
  rw [Memory.drop_read, Nat.zero_add, hlen, finalBlock, Memory.read_length, finalPlain]
  by_cases hzero : u.rlen = 0
  · rw [if_pos hzero, if_pos hzero]
    rfl
  · rw [if_neg hzero, if_neg hzero, if_neg hr.ne]
    rfl

/-- Nothing written yet. -/
def startOut (ch : Chain) : ChainOut := ⟨[], [], ch⟩

theorem reached_start (periodic : Bool) (ch : Chain) : Reached periodic 1 (startOut ch) where
  pos := le_rfl
  out := rfl
  tags := by cases periodic <;> rfl

/-- The machine's blocks are those of the message part of the whole encryption. -/
theorem encFinal_encBlocksAt (c : Setup) (u : State) (ch : Chain) :
    encFinal c u (encBlocksAt c u 1 (startOut ch) u.nnf) =
      encryptMessage c u.work.rke u.periodic ch (u.mem.read .input 0 u.mlen) := by
  have hblocks : encBlocksAt c u 1 (startOut ch) u.nnf =
      encryptBlocks c u.work.rke u.periodic 1 ch (wholeBlocks (u.mem.read .input 0 u.mlen) u.nnf) := by
    rw [wholeBlocks_read _ _ u.nnf_le_mlen]
    rfl
  have hnblk : (u.mlen + 15) / 16 = u.nblk := rfl
  have hnnf : u.nblk - 1 = u.nnf := rfl
  rw [encFinal, hblocks, encryptMessage, Memory.read_length]
  dsimp only
  rw [hnblk, hnnf]
  by_cases hzero : u.nblk = 0
  · rw [if_pos hzero, if_pos hzero]
  · have hblk : u.nnf + 1 = u.nblk := Nat.sub_add_cancel (Nat.pos_of_ne_zero hzero)
    rw [if_neg hzero, if_neg hzero, ← finalBlock_read u hzero, hblk]
    rfl

/-- The message starts at block 1, with no tag passed. -/
theorem MsgStart.blockState_eq {s u : State} (h : MsgStart s u) :
    blockState u 1 u.chain u.mem (msgPhase 1#64 u) = u := by
  have htags : tagBytesUpTo u.periodic 1 = 0 := by cases u.periodic <;> rfl
  have heq : blockState u 1 u.chain u.mem (msgPhase 1#64 u) =
      { u with work := { u.work with idx := 1#64, tagpos := 0#64 }, phase := msgPhase 1#64 u } := by
    rw [blockState, htags]
    rfl
  rw [heq, ← h.phase, ← h.idx, ← h.tagpos]

theorem MsgStart.eq_encMsg {s u : State} (h : MsgStart s u) : encMsg u 1 (startOut u.chain) = u := h.blockState_eq

theorem JustStarted.sized {s : State} (h : JustStarted s) (hlen : s.dec = true → 16 ≤ s.latch.inlen.toNat) :
    Sized s := by
  have hinit : Consistent { s with phase := .init } := {
    noIssue := h.consistent.noIssue
    memWf := h.consistent.memWf
    busyIffPhase := by simp [h.busy]
    notBusyDone := h.consistent.notBusyDone
    encLength := h.consistent.encLength
    decLength := fun _ hd _ => hlen hd
    macSeed := nofun
    macFull := nofun
    macStart := by simp
    msg := nofun
    finOfs := nofun
    final := nofun
    tagpos := by simp
    tagChk := nofun
    padChk := nofun }
  exact (hinit.sized h.busy Phase.noConfusion).congr rfl

/-- TAGOUT takes 16 bytes for each cadence point of the message. -/
theorem haltTagoutlen_encrypt {u : State} (hd : u.dec = false) :
    (haltTagoutlen .success u).toNat = tagBytesUpTo u.periodic (u.nblk + 1) := by
  have hlt := tagBytesUpTo_lt u (i := u.nblk + 1) (Nat.le_add_left 1 _) le_rfl
  rw [haltTagoutlen, tagBytesUpTo] at *
  by_cases hp : u.periodic = true
  · rw [if_pos hp] at hlt ⊢
    rw [if_pos ⟨rfl, hd, hp⟩, BitVec.toNat_ofNat, State.ntag, if_pos hp]
    exact Nat.mod_eq_of_lt hlt
  · rw [if_neg hp, if_neg fun h => hp h.2.2]
    rfl

/-- From the start of its message an encrypt command comes to HALT, with the two streams of the whole encryption behind
it. -/
theorem encrypt_reaches {s u : State} (h : MsgStart s u) (hz : Sized u) (hd : u.dec = false) :
    let o := encryptMessage Config.chip u.work.rke u.periodic u.chain (u.mem.read .input 0 u.mlen)
    let tag := (bytesOfBlock (o.chain.tagBlock Config.chip u.work.rke)).take (tagBytes u.mlen)
    Reached u.periodic (u.nblk + 1) o ∧
      ∃ v, Reaches u (haltWith .success v) ∧ SameControl u v ∧ v.mem = streams u.mem (o.out ++ tag) o.tags := by
  intro o tag
  have hstart := reached_start u.periodic u.chain
  have hmsg := encMsg_reaches h.alone hz hd u.nnf hstart (Nat.add_comm _ _)
  have hblocks := hstart.encBlocksAt u.nnf
  rw [Nat.add_comm 1] at hblocks
  have hfinal := encFinal_reaches h.alone hz hd hblocks
  have hreached := hblocks.encFinal
  rw [h.eq_encMsg] at hmsg
  rw [encFinal_encBlocksAt] at hfinal hreached
  obtain ⟨v, hstep, hv, hmem⟩ := encAt_tag_step h.alone hz hd hreached
  exact ⟨hreached, v, hmsg.trans (hfinal.trans (.of_step hstep)), hv, hmem⟩

/-- Settles O55: the run appends block by block what the whole encryption gives, and HALT keeps it. -/
theorem encryptCommandsComputeTheirFunction : Obligations.EncryptCommandsComputeTheirFunction := by
  intro s hs hd out
  have hne (h : s.dec = true) : 16 ≤ s.latch.inlen.toNat := absurd (hd.symm.trans h) Bool.false_ne_true
  obtain ⟨u, hreach, hstart⟩ := msgStart_of_started hs hne
  have hdec : u.dec = false := (State.dec_congr hstart.latch).trans hd
  have hmlen : u.mlen = s.latch.inlen.toNat := (State.mlen_congr hstart.latch).trans (State.mlen_encrypt hd)
  obtain ⟨hreached, v, hrun, hv, hmem⟩ := encrypt_reaches hstart ((hs.sized hne).congr hstart.latch) hdec
  obtain ⟨n, hn⟩ := hreach.trans hrun
  have hcolm := colmEnc_eq Config.chip s.periodic (s.mem.read .key 0 16) (s.mem.read .nonce 0 8)
    (s.mem.read .ad 0 s.latch.adlen.toNat) (s.mem.read .input 0 s.latch.inlen.toNat)
  have houtlen := haltOutlen_encrypt hdec (by rw [hstart.latch]; exact hs.consistent.encLength hs.busy hd)
  have htagoutlen := haltTagoutlen_encrypt hdec
  have hend := u.tag_end
  have htlen := u.tlen_le
  obtain ⟨hout, htags⟩ := haltWith_reads (st := .success) hmem
    (by
      rw [haltOutlen_congr hv.latch, houtlen, List.length_append, hreached.out, List.length_take, bytesOfBlock_length]
      have htagBytes : tagBytes u.mlen = u.tlen := rfl
      omega)
    (by rw [haltTagoutlen_congr hv.latch, htagoutlen, hreached.tags])
  rw [Memory.read_length] at hcolm
  rw [hstart.rke, State.periodic_congr hstart.latch, hstart.chain, hstart.mem, hmlen] at hout htags
  exact ⟨n, _, hn, rfl, rfl, hout.trans (congrArg Prod.fst hcolm).symm, htags.trans (congrArg Prod.snd hcolm).symm⟩

end Sys2Proof.Machine
end

section
/-! PROOFS of the family 43_colm0.md, sixth part: the decrypt commands against the whole decryption (R152, R167, R237,
R218, R220, R222, R224). A block either goes on as the function does or raises where the function gives nothing; the tag
and the padding then decide as the function's verdict does. -/

namespace Sys2Proof.Machine

/-! ## One block decrypted -/

/-- The state before block `i` of a decryption that has given `o` so far; `o.tags` are the tags not yet passed. -/
def decAt (u : State) (i : Nat) (o : ChainOut) (p : Phase) : State :=
  blockState u i o.chain (u.mem.write .out 0 o.out) p

/-- What the blocks before block `i` have given, and the tags they have left. -/
structure Recovered (u : State) (i : Nat) (o : ChainOut) : Prop where
  pos : 1 ≤ i
  out : o.out.length = 16 * (i - 1)
  tags : o.tags = (u.mem.read .tagIn 0 u.latch.taginlen.toNat).drop (tagBytesUpTo u.periodic i)

theorem Chain.decryptAt_eq (c : Setup) (rke rkd : Sched) (periodic : Bool) (ch : Chain) (i : Nat) (tags : List Byte)
    (x : Block) :
    ch.decryptAt c rke rkd periodic i tags x =
      let cad := periodic && i % 127 == 0
      let dc := if cad then dbl ch.dc else ch.dc
      let t := if cad then bytesOfBlock (c.bcEnc rke ch.w ^^^ dbl ch.dc) else []
      let r := rhoInv (c.bcDec rkd (x ^^^ dc)) ch.w
      let p := c.bcDec rkd r.1 ^^^ ch.dm
      if tags.take t.length = t then some (p, tags.drop t.length, ⟨ch.dm, dc, r.2, ch.cs ^^^ p⟩) else none := by
  cases hc : periodic && i % 127 == 0 with
  | false => simp only [Chain.decryptAt, Chain.itag, Chain.cadence, Chain.decrypt, hc, Bool.false_eq_true, if_false]
  | true => simp only [Chain.decryptAt, Chain.itag, Chain.cadence, Chain.decrypt, hc, if_true]

section DecAt

variable (c : Setup) {u : State} {i : Nat} {o : ChainOut} (p : Phase)

theorem decAt_buf {sp : Space} (hsp : sp ≠ .out) : (decAt u i o p).mem.buf sp = u.mem.buf sp :=
  Memory.buf_write_of_ne _ hsp _ _

/-- The head of the tags left is the tag of block `i` where TAGIN holds it (R162). -/
theorem tagFits_decAt (h : Recovered u i o) (hle : i ≤ u.nblk) (dc : Block) :
    TagFits c (decAt u i o p).work.idx dc (decAt u i o p) ↔
      let t := if u.periodic && i % 127 == 0 then bytesOfBlock (c.bcEnc u.work.rke o.chain.w ^^^ dc) else []
      o.tags.take t.length = t := by
  have hcad : (decAt u i o p).cadence (decAt u i o p).work.idx = (u.periodic && i % 127 == 0) :=
    blockState_cadence (hle.trans (Nat.le_succ _))
  have htp : (decAt u i o p).work.tagpos.toNat = tagBytesUpTo u.periodic i :=
    blockState_tagpos h.pos (hle.trans (Nat.le_succ _))
  have hread (a n : Nat) : (decAt u i o p).mem.read .tagIn a n = u.mem.read .tagIn a n :=
    Memory.read_buf_congr (decAt_buf p Space.noConfusion) a n
  have hvalue : itagValue c dc (decAt u i o p) = c.bcEnc u.work.rke o.chain.w ^^^ dc := rfl
  have hlatch : (decAt u i o p).latch = u.latch := rfl
  rw [TagFits, hcad, htp, hvalue, hlatch, ← read_eq_bytesOfBlock_iff, hread, h.tags, Memory.drop_read, Nat.zero_add]
  cases u.periodic && i % 127 == 0 with
  | false => simp
  | true =>
    simp only [if_true, true_implies, bytesOfBlock_length]
    by_cases hlen : tagBytesUpTo u.periodic i + 16 ≤ u.latch.taginlen.toNat
    · rw [Memory.take_read _ _ _ _ _ (by omega)]
      exact and_iff_right hlen
    · refine ⟨fun h => absurd h.1 hlen, fun h => ?_⟩
      have hshort := congrArg List.length h
      rw [List.length_take, Memory.read_length, bytesOfBlock_length] at hshort
      omega

/-- What is given once the non-final block `i` is decrypted, if its tag passes. -/
def decBlockAt (c : Setup) (u : State) (i : Nat) (o : ChainOut) : Option ChainOut :=
  ((o.chain.offsets dbl).decryptAt c u.work.rke u.work.rkd u.periodic i o.tags
    (u.mem.loadBlock .input (16 * (i - 1)))).map fun r => ⟨o.out ++ bytesOfBlock r.1, r.2.1, r.2.2⟩

/-- The state of a decryption in the phase of block `i`. -/
def decMsg (u : State) (i : Nat) (o : ChainOut) : State := decAt u i o (msgPhase (BitVec.ofNat 64 i) u)

/-- A step to block `i`: on to what the blocks before it have given, or the failure where they give nothing. -/
def DecResult (u : State) (i : Nat) (f : Flow) : Option ChainOut → Prop
  | some o => f = .go (decMsg u i o) ∧ Recovered u i o
  | none => ∃ v, f = .halt .intermediateTagMismatch v ∧ SameControl u v

/-- A store of the next `n` bytes of the message. -/
theorem decAt_store (x : Block) (n : Nat) {a : Nat} (ha : a = o.out.length) :
    (decAt u i o p).mem.storeBlock .out a x n = u.mem.write .out 0 (o.out ++ (bytesOfBlock x).take n) := by
  rw [Memory.write_append, Nat.zero_add, ha]
  rfl

/-- The tags left behind block `i`. -/
theorem Recovered.tags_drop (h : Recovered u i o) (x : Block) :
    o.tags.drop (if u.periodic && i % 127 == 0 then bytesOfBlock x else []).length =
      (u.mem.read .tagIn 0 u.latch.taginlen.toNat).drop (tagBytesUpTo u.periodic (i + 1)) := by
  rw [h.tags, List.drop_drop, tagBytesUpTo_succ _ h.pos]
  split_ifs
  · rw [bytesOfBlock_length]
  · rfl

theorem AtMsg.blkDecStep_eq {s : State} (h : AtMsg s) (htag : TagFits c s.work.idx (dbl (dbl s.work.dc)) s) :
    blkDecStep c s = .go (blkDecEnd c s) :=
  blkDecStep_of_le c (blockAddr_fits h.pos h.le h.sized.mlen_le_input) (blockAddr_fits h.pos h.le h.sized.mlen_le_out)
    htag

/-- What BLK.DEC leaves of the block at `IDX`, whatever tags are left. -/
theorem blkDecEnd_decAt (h : Recovered u i o) (hle : i ≤ u.nnf) (rest : List Byte) :
    let dc := if u.periodic && i % 127 == 0 then dbl (dbl o.chain.dc) else dbl o.chain.dc
    let r := rhoInv (c.bcDec u.work.rkd (u.mem.loadBlock .input (16 * (i - 1)) ^^^ dc)) o.chain.w
    let x := c.bcDec u.work.rkd r.1 ^^^ dbl o.chain.dm
    blkDecEnd c (decAt u i o p) =
      decMsg u (i + 1) ⟨o.out ++ bytesOfBlock x, rest, ⟨dbl o.chain.dm, dc, r.2, o.chain.cs ^^^ x⟩⟩ := by
  have hblk : i ≤ u.nblk := hle.trans (Nat.sub_le _ _)
  have hload := Memory.loadBlock_congr (decAt_buf p (u := u) (i := i) (o := o) (sp := .input) Space.noConfusion)
    (16 * (i - 1))
  have hstore (x : Block) := decAt_store (u := u) (i := i) p x 16 h.out.symm
  dsimp only [blkDecEnd]
  unfold decAt at *
  rw [blockState_blockAddr h.pos hle, hload, hstore, blockState_idx_succ,
    blockState_cadence (hblk.trans (Nat.le_succ _)), blockState_nnf, blockState_tagpos_succ h.pos,
    List.take_of_length_le (bytesOfBlock_length _).le]
  simp only [decMsg, decAt, blockState, msgPhase]

theorem blkDecStep_decAt (hz : Sized u) (h : Recovered u i o) (hle : i ≤ u.nnf) :
    DecResult u (i + 1) (blkDecStep c (decAt u i o p)) (decBlockAt c u i o) := by
  have hpos := h.pos
  have hat : AtMsg (decAt u i o p) := blockState_atMsg hz hpos hle
  have hfits := tagFits_decAt c p h (hle.trans (Nat.sub_le _ _)) (dbl (dbl o.chain.dc))
  rw [decBlockAt, Chain.decryptAt_eq]
  dsimp only [Chain.offsets] at hfits ⊢
  by_cases hf : TagFits c (decAt u i o p).work.idx (dbl (dbl o.chain.dc)) (decAt u i o p)
  · rw [if_pos (hfits.mp hf)]
    refine ⟨(hat.blkDecStep_eq c hf).trans (congrArg Flow.go (blkDecEnd_decAt c p h hle _)), Nat.le_add_left 1 i, ?_,
      h.tags_drop _⟩
    rw [List.length_append, h.out, bytesOfBlock_length]
    omega
  · rw [if_neg (mt hfits.mpr hf)]
    exact ⟨_, blkDecStep_of_not_fits c hf, (SameControl.refl u).update _ _ _⟩

/-! ## The message decrypted -/

/-- What is given once `n` non-final blocks from block `i` on are decrypted, if their tags pass. -/
def decBlocksAt (c : Setup) (u : State) (i : Nat) (o : ChainOut) (n : Nat) : Option ChainOut :=
  (decryptBlocks c u.work.rke u.work.rkd u.periodic i o.chain o.tags (blocksFrom u.mem .input (i - 1) n)).map
    fun b => ⟨o.out ++ b.out, b.tags, b.chain⟩

theorem decBlocksAt_zero : decBlocksAt c u i o 0 = some o := by
  simp [decBlocksAt, blocksFrom, decryptBlocks]

theorem decBlocksAt_succ (hpos : 1 ≤ i) (n : Nat) :
    decBlocksAt c u i o (n + 1) = (decBlockAt c u i o).bind fun o1 => decBlocksAt c u (i + 1) o1 n := by
  have hi : i - 1 + 1 = i + 1 - 1 := by omega
  rw [decBlocksAt, decBlockAt, blocksFrom_succ]
  cases hr : (o.chain.offsets dbl).decryptAt c u.work.rke u.work.rkd u.periodic i o.tags
      (u.mem.loadBlock .input (16 * (i - 1))) with
  | none =>
    rw [decryptBlocks_cons_of_none c hr]
    rfl
  | some r =>
    rw [decryptBlocks_cons_of_some c hr, hi, Option.map_map]
    simp only [Option.map_some, Option.bind_some, decBlocksAt, Function.comp_def, List.append_assoc]

theorem DecResult.andThen {f : Flow} {x : Option ChainOut} {j : Nat} {g : State → Flow}
    {k : ChainOut → Option ChainOut} (hf : DecResult u i f x)
    (hg : ∀ o, Recovered u i o → DecResult u j (g (decMsg u i o)) (k o)) :
    DecResult u j (f.andThen g) (x.bind k) := by
  cases x with
  | none =>
    obtain ⟨v, rfl, hv⟩ := hf
    exact ⟨v, rfl, hv⟩
  | some o =>
    obtain ⟨rfl, ho⟩ := hf
    exact hg o ho

end DecAt

/-- The run from `t`: on to block `i`, or to the failure where the blocks before it give nothing. -/
def DecRun (u : State) (i : Nat) (t : State) : Option ChainOut → Prop
  | some o => Reaches t (decMsg u i o) ∧ Recovered u i o
  | none => ∃ v, Reaches t (haltWith .intermediateTagMismatch v) ∧ SameControl u v

theorem DecRun.of_step {u t : State} {i j : Nat} {f : Flow} {x : Option ChainOut} {k : ChainOut → Option ChainOut}
    (hstep : step t = f.finish) (hf : DecResult u i f x)
    (hk : ∀ o, Recovered u i o → DecRun u j (decMsg u i o) (k o)) : DecRun u j t (x.bind k) := by
  cases x with
  | none =>
    obtain ⟨v, rfl, hv⟩ := hf
    exact ⟨v, .of_step hstep, hv⟩
  | some o =>
    obtain ⟨rfl, ho⟩ := hf
    have hrun := hk o ho
    rw [Option.bind_some]
    cases hx : k o with
    | none =>
      rw [hx] at hrun
      obtain ⟨v, hv, hsame⟩ := hrun
      exact ⟨v, .head hstep hv, hsame⟩
    | some o1 =>
      rw [hx] at hrun
      exact ⟨.head hstep hrun.1, hrun.2⟩

section DecRun

variable {u : State} (hu : Alone u) (hz : Sized u) (hd : u.dec = true) {i : Nat} {o : ChainOut}
include hu hz hd

theorem decMsg_step (h : Recovered u i o) (hle : i ≤ u.nnf) :
    let t := decMsg u i o
    let D := blkDecStep Config.chip
    step t = (D t).finish ∨ i + 2 ≤ u.nnf ∧ step t = ((D t).andThen fun t1 => (D t1).andThen D).finish := by
  intro t D
  have hat : AtMsg t := blockState_atMsg hz h.pos hle
  have hdec : t.dec = true := (State.dec_congr (s := u) rfl).trans hd
  have hstep := hat.step_eq hu.blockState (msgPhase_of_le hle)
  rw [hdec] at hstep
  obtain hone | ⟨hgroup, hthree⟩ := hstep
  · exact .inl hone
  · exact .inr ⟨blockState_inGroup_le hgroup hle, hthree.trans (b3DecStep_finish Config.chip hat.sized hgroup)⟩

/-- All non-final blocks from block `i` on. -/
theorem decMsg_reaches (n : Nat) (h : Recovered u i o) (hn : i + n = u.nnf + 1) :
    DecRun u (u.nnf + 1) (decMsg u i o) (decBlocksAt Config.chip u i o n) := by
  induction n using Nat.strong_induction_on generalizing i o with
  | _ n ih =>
    cases n with
    | zero =>
      rw [decBlocksAt_zero, ← hn]
      exact ⟨.refl _, h⟩
    | succ n =>
      let D := blkDecStep Config.chip
      have hone {i : Nat} {o : ChainOut} (h : Recovered u i o) (hle : i ≤ u.nnf) :
          DecResult u (i + 1) (D (decMsg u i o)) (decBlockAt Config.chip u i o) :=
        blkDecStep_decAt Config.chip _ hz h hle
      rw [decBlocksAt_succ _ h.pos]
      obtain hstep | ⟨hle, hstep⟩ := decMsg_step hu hz hd h (by omega)
      · exact .of_step hstep (hone h (by omega)) fun o1 h1 => ih n (by omega) h1 (by omega)
      · obtain ⟨k, rfl⟩ : ∃ k, n = k + 2 := ⟨n - 2, by omega⟩
        have hpos2 : 1 ≤ i + 1 := Nat.le_add_left 1 i
        have hpos3 : 1 ≤ i + 1 + 1 := Nat.le_add_left 1 (i + 1)
        have hgroup : DecResult u (i + 1 + 1 + 1)
            ((D (decMsg u i o)).andThen fun t1 => (D t1).andThen D)
            ((decBlockAt Config.chip u i o).bind fun o1 =>
              (decBlockAt Config.chip u (i + 1) o1).bind (decBlockAt Config.chip u (i + 1 + 1))) :=
          (hone h (by omega)).andThen fun o1 h1 => (hone h1 (by omega)).andThen fun o2 h2 => hone h2 (by omega)
        have hrun := DecRun.of_step hstep hgroup fun o3 h3 => ih k (by omega) h3 (by omega)
        simpa only [decBlocksAt_succ _ hpos2, decBlocksAt_succ _ hpos3, Option.bind_assoc] using hrun

end DecRun

/-! ## The final block -/

/-- What is given with the final stage, once the non-final blocks have given `o`, and the recovered final block. -/
def decFinal (c : Setup) (u : State) (o : ChainOut) : Option (ChainOut × List Byte) :=
  let ch := o.chain.final (u.mlen % 16)
  if u.nblk = 0 then some ({ o with chain := ch }, [])
  else (ch.decryptAt c u.work.rke u.work.rkd u.periodic (u.nnf + 1) o.tags (u.mem.loadBlock .input (16 * u.nnf))).map
    fun r => (⟨o.out ++ (bytesOfBlock r.1).take u.tlen, r.2.1, r.2.2⟩, bytesOfBlock r.1)

/-- `t` is the state at the tag, after the message `o` whose last block is `pf`. -/
structure AtTag (u : State) (o : ChainOut) (pf : List Byte) (t : State) : Prop where
  control : SameControl u t
  phase : t.phase = .tag
  rke : t.work.rke = u.work.rke
  chain : t.chain = o.chain
  mem : t.mem = u.mem.write .out 0 o.out
  out : o.out.length = u.mlen
  pf : 0 < u.rlen → pf = bytesOfBlock t.work.pf

section DecEnd

variable {u : State} (hu : Alone u) (hz : Sized u) (hd : u.dec = true) {o : ChainOut}

theorem AtFinal.finDecStep_eq (c : Setup) {s : State} (h : AtFinal s) (hd : s.dec = true)
    (htag : TagFits c s.work.idx (dbl s.work.dc) s) : finDecStep c s = .go (finDecEnd c s) := by
  have hsize : s.spaceSize .input = s.mlen + 16 := by rw [h.sized.input, hd]; rfl
  have hroom : 16 * s.nnf + s.tlen ≤ s.spaceSize .out := (h.end_eq rfl).le.trans h.sized.mlen_le_out
  exact finDecStep_of_le c (final_fits hsize) hroom htag

/-- What FIN.DEC leaves, whatever tags are left. -/
theorem finDecEnd_atTag (c : Setup) (hpos : 0 < u.nblk) (h : Recovered u (u.nnf + 1) o) (rest : List Byte) :
    let dc := if u.periodic && (u.nnf + 1) % 127 == 0 then dbl o.chain.dc else o.chain.dc
    let r := rhoInv (c.bcDec u.work.rkd (u.mem.loadBlock .input (16 * u.nnf) ^^^ dc)) o.chain.w
    let x := c.bcDec u.work.rkd r.1 ^^^ o.chain.dm
    AtTag u ⟨o.out ++ (bytesOfBlock x).take u.tlen, rest, ⟨o.chain.dm, dc, r.2, o.chain.cs ^^^ x⟩⟩ (bytesOfBlock x)
      (finDecEnd c (decAt u (u.nnf + 1) o .final)) := by
  intro dc r x
  let t := decAt u (u.nnf + 1) o .final
  have hblk : u.nnf + 1 ≤ u.nblk := (Nat.sub_add_cancel hpos).le
  have hnnf : t.nnf = u.nnf := blockState_nnf
  have htlen : t.tlen = u.tlen := State.tlen_congr rfl
  have hcad : t.cadence t.work.idx = (u.periodic && (u.nnf + 1) % 127 == 0) :=
    blockState_cadence (hblk.trans (Nat.le_succ _))
  have hload : t.mem.loadBlock .input (16 * u.nnf) = u.mem.loadBlock .input (16 * u.nnf) :=
    Memory.loadBlock_congr (decAt_buf .final Space.noConfusion) _
  have hstore (x : Block) (n : Nat) : t.mem.storeBlock .out (16 * u.nnf) x n = _ :=
    decAt_store .final x n (by rw [h.out, Nat.add_sub_cancel])
  refine ⟨(SameControl.refl u).update _ _ _, rfl, rfl, ?chain, ?mem, ?out, fun _ => ?pf⟩
  case chain =>
    rw [State.chain, finDecEnd, hnnf, hload, hcad]
    rfl
  case mem =>
    rw [finDecEnd, hnnf, hload, hcad, htlen, hstore]
    rfl
  case out =>
    rw [List.length_append, List.length_take, bytesOfBlock_length, h.out, min_eq_left u.tlen_le]
    exact State.final_end hpos
  case pf =>
    rw [finDecEnd, hnnf, hload, hcad]
    rfl

include hu hz hd in
/-- FIN.DEC goes on to the tag as the function does, or raises where the function gives nothing. -/
theorem decAt_final_step (hne : u.nblk ≠ 0) (h : Recovered u (u.nnf + 1) o) :
    let t := decAt u (u.nnf + 1) o .final
    match o.chain.decryptAt Config.chip u.work.rke u.work.rkd u.periodic (u.nnf + 1) o.tags
      (u.mem.loadBlock .input (16 * u.nnf)) with
    | some r => ∃ t', step t = .next t' ∧
        AtTag u ⟨o.out ++ (bytesOfBlock r.1).take u.tlen, r.2.1, r.2.2⟩ (bytesOfBlock r.1) t'
    | none => ∃ v, step t = .next (haltWith .intermediateTagMismatch v) ∧ SameControl u v := by
  intro t
  have hpos : 0 < u.nblk := Nat.pos_of_ne_zero hne
  have halone : Alone t := hu.blockState
  have hat : AtFinal t := blockState_atFinal hz hpos
  have hdec : t.dec = true := (State.dec_congr (by rfl)).trans hd
  have hstep : step t = (finDecStep Config.chip t).finish :=
    halone.step_eq (u := 13#5) (i := .finDec) (by rw [issued, hdec]; rfl) rfl
  have hfits := tagFits_decAt Config.chip .final h (Nat.sub_add_cancel hpos).le (dbl o.chain.dc)
  rw [Chain.decryptAt_eq]
  dsimp only at hfits ⊢
  by_cases hf : TagFits Config.chip t.work.idx (dbl o.chain.dc) t
  · rw [if_pos (hfits.mp hf)]
    exact ⟨_, hstep.trans (congrArg Flow.finish (hat.finDecStep_eq Config.chip hdec hf)),
      finDecEnd_atTag Config.chip hpos h _⟩
  · rw [if_neg (mt hfits.mpr hf)]
    exact ⟨_, hstep.trans (congrArg Flow.finish (finDecStep_of_not_fits _ hf)), (SameControl.refl u).update _ _ _⟩

/-- The run from `t`: on to the tag, or to the failure where the message part gives nothing. -/
def DecDone (u t : State) : Option (ChainOut × List Byte) → Prop
  | some (o, pf) => ∃ w, Reaches t w ∧ AtTag u o pf w
  | none => ∃ v, Reaches t (haltWith .intermediateTagMismatch v) ∧ SameControl u v

include hu hz hd in
/-- The final stage up to the tag. -/
theorem decFinal_reaches (h : Recovered u (u.nnf + 1) o) :
    DecDone u (decMsg u (u.nnf + 1) o) (decFinal Config.chip u o) := by
  have hofs : step (decMsg u (u.nnf + 1) o) = .next (decAt u (u.nnf + 1) { o with chain := o.chain.final (u.mlen % 16) }
      (if u.nblk = 0 then .tag else .final)) := finOfs_step hu o.chain (u.mem.write .out 0 o.out)
  unfold decFinal
  dsimp only
  by_cases hzero : u.nblk = 0
  · rw [if_pos hzero] at hofs ⊢
    have hend := u.tag_end
    have hnnf : u.nnf = 0 := by rw [State.nnf, hzero]
    have hmlen : u.mlen = 0 := by
      rw [State.nblk] at hzero
      omega
    exact ⟨_, .of_step hofs, {
      control := blockState_sameControl
      phase := rfl
      rke := rfl
      chain := rfl
      mem := rfl
      out := by rw [h.out, hmlen, hnnf]
      pf := fun hr => absurd hr (by rw [State.rlen, hmlen]; exact lt_irrefl 0) }⟩
  · rw [if_neg hzero] at hofs ⊢
    have hstep := decAt_final_step hu hz hd hzero
      (o := { o with chain := o.chain.final (u.mlen % 16) }) ⟨h.pos, h.out, h.tags⟩
    dsimp only at hstep
    split at hstep
    next r hr =>
      obtain ⟨t', ht', hat⟩ := hstep
      rw [hr]
      exact ⟨t', .head hofs (.of_step ht'), hat⟩
    next hr =>
      obtain ⟨v, hv, hsame⟩ := hstep
      rw [hr]
      exact ⟨v, .head hofs (.of_step hv), hsame⟩

/-! ## The verdict (R150, R151) -/

theorem paddingStatus_eq {t : State} (hr : 0 < t.rlen) :
    paddingStatus t = paddingVerdict t.rlen (bytesOfBlock t.work.pf) := by
  rw [paddingVerdict, if_neg hr.ne']
  rfl

theorem padChk_step {t : State} (ht : Alone t) :
    step { t with phase := .padChk } = .next (haltWith (paddingStatus t) { t with phase := .padChk }) := by
  have halone : Alone { t with phase := .padChk } := ht.of_sameControl ((SameControl.refl t).update _ _ _)
  exact halone.step_eq (u := 18#5) (i := .padChk) rfl rfl

/-- From TAG.CHK on, with the tag's block in `T`. -/
theorem tagChk_reaches {t : State} (ht : Alone t) (hp : t.phase = .tagChk)
    (hin : 16 * t.nblk + t.tlen ≤ t.spaceSize .input) {pf : List Byte}
    (hpf : 0 < t.rlen → pf = bytesOfBlock t.work.pf) :
    ∃ v, SameControl t v ∧ v.mem = t.mem ∧ Reaches t (haltWith
      (if t.mem.read .input (16 * t.nblk) t.tlen = (bytesOfBlock t.work.t).take t.tlen then paddingVerdict t.rlen pf
        else .tagMismatch) v) := by
  have hstep : step t = (tagChkStep t).finish := ht.step_eq (i := .tagChk) (by rw [issued, hp]) rfl
  have hmatch : tagMatches t (t.mem.read .input (16 * t.nblk) t.tlen) = true ↔
      t.mem.read .input (16 * t.nblk) t.tlen = (bytesOfBlock t.work.t).take t.tlen := beq_iff_eq
  rw [tagChkStep_of_le hin] at hstep
  by_cases htag : t.mem.read .input (16 * t.nblk) t.tlen = (bytesOfBlock t.work.t).take t.tlen
  · rw [if_pos (hmatch.mpr htag)] at hstep
    rw [if_pos htag]
    by_cases hr : 0 < t.rlen
    · rw [if_pos hr] at hstep
      rw [hpf hr, ← paddingStatus_eq hr]
      exact ⟨_, (SameControl.refl t).update _ _ .padChk, rfl, .head hstep (.of_step (padChk_step ht))⟩
    · rw [if_neg hr] at hstep
      have hok : paddingVerdict t.rlen pf = .success := if_pos (Nat.eq_zero_of_not_pos hr)
      rw [hok]
      exact ⟨t, SameControl.refl t, rfl, .of_step hstep⟩
  · rw [if_neg (mt hmatch.mp htag)] at hstep
    rw [if_neg htag]
    exact ⟨t, SameControl.refl t, rfl, .of_step hstep⟩

end DecEnd

/-- From the tag on, a decryption ends with the verdict of the function. -/
theorem decryptVerdict_reaches {u t : State} (hu : Alone u) (hz : Sized u) (hd : u.dec = true) {o : ChainOut}
    {pf : List Byte} (h : AtTag u o pf t) :
    ∃ v, SameControl u v ∧ v.mem = t.mem ∧ Reaches t (haltWith (decryptVerdict Config.chip u.work.rke o.chain u.mlen
      (u.mem.read .input (16 * u.nblk) u.tlen) pf) v) := by
  let t1 : State := { t with work := tagWork Config.chip t, phase := .tagChk }
  have hsame : SameControl t t1 := (SameControl.refl t).update _ _ _
  have halone : Alone t := hu.of_sameControl h.control
  have hstep : step t = .next t1 := by
    have hdec : t.dec = true := (State.dec_congr h.control.latch).trans hd
    have hgen := tagGenStep_decrypt Config.chip hdec
    exact (halone.step_eq (i := .tagGen) (by rw [issued, h.phase]) rfl).trans (congrArg Flow.finish hgen)
  have hl : t1.latch = u.latch := (h.control.trans hsame).latch
  have hnblk : t1.nblk = u.nblk := State.nblk_congr hl
  have htlen : t1.tlen = u.tlen := State.tlen_congr hl
  have hrlen : t1.rlen = u.rlen := State.rlen_congr hl
  have hroom : 16 * t1.nblk + t1.tlen ≤ t1.spaceSize .input := by
    rw [hnblk, htlen, State.spaceSize_congr hl, u.tag_end, hz.input, if_pos hd]
  have hread : t1.mem.read .input (16 * u.nblk) u.tlen = u.mem.read .input (16 * u.nblk) u.tlen :=
    Memory.read_buf_congr (h.mem ▸ Memory.buf_write_of_ne _ Space.noConfusion _ _) _ _
  have htag : t1.work.t = o.chain.tagBlock Config.chip u.work.rke := by
    rw [← h.chain, ← h.rke]
    rfl
  obtain ⟨v, hv, hmem, hrun⟩ := tagChk_reaches (halone.of_sameControl hsame) rfl hroom fun hr => h.pf (hrlen ▸ hr)
  rw [hnblk, htlen, hrlen, hread, htag] at hrun
  exact ⟨v, (h.control.trans hsame).trans hv, hmem, .head hstep hrun⟩

/-! ## The whole decryption -/

/-- Nothing recovered yet: all of TAGIN is left. -/
def decStart (u : State) : ChainOut := ⟨[], u.mem.read .tagIn 0 u.latch.taginlen.toNat, u.chain⟩

theorem recovered_start (u : State) : Recovered u 1 (decStart u) where
  pos := le_rfl
  out := rfl
  tags := by cases hp : u.periodic <;> rfl

/-- The bytes of IN from `a` on, read off the whole stream. -/
theorem take_drop_read (m : Memory) (sp : Space) {a n len : Nat} (h : a + n ≤ len) :
    ((m.read sp 0 len).drop a).take n = m.read sp a n := by
  rw [Memory.drop_read, Nat.zero_add, Memory.take_read _ _ _ _ _ (by omega)]

/-- The machine's blocks are those of the message part of the whole decryption. -/
theorem decFinal_decBlocksAt (c : Setup) {u : State} {len : Nat} (hlen : len = u.mlen + 16) :
    (decBlocksAt c u 1 (decStart u) u.nnf).bind (decFinal c u) =
      decryptMessage c u.work.rke u.work.rkd u.periodic u.chain u.mlen
        (u.mem.read .tagIn 0 u.latch.taginlen.toNat) (u.mem.read .input 0 len) := by
  have hnnf := u.nnf_le_mlen
  have hblocks : decBlocksAt c u 1 (decStart u) u.nnf =
      decryptBlocks c u.work.rke u.work.rkd u.periodic 1 u.chain (u.mem.read .tagIn 0 u.latch.taginlen.toNat)
        (wholeBlocks (u.mem.read .input 0 len) u.nnf) := by
    rw [wholeBlocks_read _ _ (by omega)]
    exact congrFun Option.map_id_fun _
  have hnblk : (u.mlen + 15) / 16 = u.nblk := rfl
  have hcount : u.nblk - 1 = u.nnf := rfl
  rw [hblocks, decryptMessage]
  dsimp only
  rw [hnblk, hcount]
  cases decryptBlocks c u.work.rke u.work.rkd u.periodic 1 u.chain (u.mem.read .tagIn 0 u.latch.taginlen.toNat)
      (wholeBlocks (u.mem.read .input 0 len) u.nnf) with
  | none => rfl
  | some a =>
    rw [Option.bind_some, decFinal]
    dsimp only
    by_cases hzero : u.nblk = 0
    · rw [if_pos hzero, if_pos hzero]
    · have hblk : u.nnf + 1 = u.nblk := Nat.sub_add_cancel (Nat.pos_of_ne_zero hzero)
      rw [if_neg hzero, if_neg hzero, take_drop_read _ _ (by omega), hblk, Memory.loadBlock]
      generalize (a.chain.final (u.mlen % 16)).decryptAt c u.work.rke u.work.rkd u.periodic u.nblk a.tags
        (blockOfBytes (u.mem.read .input (16 * u.nnf) 16)) = x
      cases x with
      | none => rfl
      | some r => rfl

theorem MsgStart.eq_decMsg {s u : State} (h : MsgStart s u) : decMsg u 1 (decStart u) = u := h.blockState_eq

/-- From the start of its message a decrypt command comes to the tag, or to the failure where the message part of the
whole decryption gives nothing. -/
theorem decrypt_reaches {s u : State} (h : MsgStart s u) (hz : Sized u) (hd : u.dec = true) {len : Nat}
    (hlen : len = u.mlen + 16) :
    DecDone u u (decryptMessage Config.chip u.work.rke u.work.rkd u.periodic u.chain u.mlen
      (u.mem.read .tagIn 0 u.latch.taginlen.toNat) (u.mem.read .input 0 len)) := by
  have hmsg := decMsg_reaches h.alone hz hd u.nnf (recovered_start u) (Nat.add_comm _ _)
  rw [h.eq_decMsg] at hmsg
  rw [← decFinal_decBlocksAt Config.chip hlen]
  cases hb : decBlocksAt Config.chip u 1 (decStart u) u.nnf with
  | none => rwa [hb] at hmsg
  | some o =>
    rw [hb] at hmsg
    obtain ⟨hreach, hrec⟩ := hmsg
    have hfinal := decFinal_reaches h.alone hz hd hrec
    rw [Option.bind_some]
    cases hf : decFinal Config.chip u o with
    | none =>
      rw [hf] at hfinal
      obtain ⟨v, hv, hsame⟩ := hfinal
      exact ⟨v, hreach.trans hv, hsame⟩
    | some r =>
      rw [hf] at hfinal
      obtain ⟨w, hw, hat⟩ := hfinal
      exact ⟨w, hreach.trans hw, hat⟩

/-- A failure shows nothing. -/
theorem haltWith_failure_reads {st : Status} (hst : st ≠ .success) (v : State) :
    (haltWith st v).mem.read .out 0 (haltWith st v).outlen.toNat = [] ∧ (haltWith st v).tagoutlen = 0#64 := by
  have houtlen : (haltWith st v).outlen = 0#64 := haltOutlen_failure v hst
  refine ⟨?_, haltTagoutlen_failure v hst⟩
  rw [houtlen]
  rfl

/-- What HALT shows of a decryption: the recovered bytes with Success, none with a failure. -/
theorem haltWith_releases {u v : State} {st : Status} {out : List Byte} (hd : u.dec = true) (hv : SameControl u v)
    (hm : v.mem = u.mem.write .out 0 out) (hlen : out.length = u.mlen) :
    (haltWith st v).mem.read .out 0 (haltWith st v).outlen.toNat = (releaseOn st out).2 ∧
      (haltWith st v).tagoutlen = 0#64 := by
  have hdec : v.dec = true := (State.dec_congr hv.latch).trans hd
  have htagoutlen : haltTagoutlen st v = 0#64 := if_neg fun h => Bool.false_ne_true (h.2.1.symm.trans hdec)
  refine ⟨?_, htagoutlen⟩
  by_cases hst : st = .success
  · subst hst
    have houtlen : (haltOutlen .success v).toNat = out.length := by
      rw [haltOutlen_decrypt hdec, State.mlen_congr hv.latch, hlen]
    have hreads := haltWith_reads (tags := []) (m := u.mem) hm houtlen (by rw [htagoutlen]; rfl)
    exact hreads.1
  · rw [releaseOn, if_neg hst]
    exact (haltWith_failure_reads hst v).1

/-- From the start of its message a decrypt command comes to HALT with the verdict of the whole decryption, and shows
what it releases. -/
theorem decrypt_halts {s u : State} (h : MsgStart s u) (hz : Sized u) (hd : u.dec = true) {len : Nat}
    (hlen : len = u.mlen + 16) :
    let ct := u.mem.read .input 0 len
    let received := (ct.drop (16 * u.nblk)).take (tagBytes u.mlen)
    let result : Status × List Byte := match decryptMessage Config.chip u.work.rke u.work.rkd u.periodic u.chain u.mlen
        (u.mem.read .tagIn 0 u.latch.taginlen.toNat) ct with
      | none => (.intermediateTagMismatch, [])
      | some (m, pf) => releaseOn (decryptVerdict Config.chip u.work.rke m.chain u.mlen received pf) m.out
    ∃ st v, Reaches u (haltWith st v) ∧ st = result.1 ∧
      (haltWith st v).mem.read .out 0 (haltWith st v).outlen.toNat = result.2 ∧ (haltWith st v).tagoutlen = 0#64 := by
  intro ct received
  have hend := u.tag_end
  have hreceived : received = u.mem.read .input (16 * u.nblk) u.tlen := take_drop_read _ _ (by rw [hlen]; exact hend.le)
  have hdone := decrypt_reaches h hz hd hlen
  cases hm : decryptMessage Config.chip u.work.rke u.work.rkd u.periodic u.chain u.mlen
      (u.mem.read .tagIn 0 u.latch.taginlen.toNat) ct with
  | none =>
    rw [hm] at hdone
    obtain ⟨v, hv, hsame⟩ := hdone
    obtain ⟨hout, htags⟩ := haltWith_failure_reads (st := .intermediateTagMismatch) (by decide) v
    exact ⟨_, v, hv, rfl, hout, htags⟩
  | some r =>
    rw [hm] at hdone
    obtain ⟨w, hw, hat⟩ := hdone
    obtain ⟨v, hsame, hmem, hrun⟩ := decryptVerdict_reaches h.alone hz hd hat
    rw [← hreceived] at hrun
    obtain ⟨hout, htags⟩ := haltWith_releases hd hsame (hmem.trans hat.mem) hat.out
    exact ⟨_, v, hw.trans hrun, rfl, hout, htags⟩

/-- Settles O56: a stream shorter than a tag ends at once; else the run ends with the function's verdict. -/
theorem decryptCommandsComputeTheirFunction : Obligations.DecryptCommandsComputeTheirFunction := by
  intro s hs hd out
  by_cases hshort : s.latch.inlen.toNat < 16
  · have hstep := chkLen_step hs
    rw [if_pos ⟨hd, hshort⟩] at hstep
    obtain ⟨n, hn⟩ := Reaches.of_step hstep
    have hout : out = (.invalidLength, []) := if_pos (by rwa [Memory.read_length])
    obtain ⟨hnothing, htags⟩ := haltWith_failure_reads (st := .invalidLength) (by decide) s
    exact ⟨n, _, hn, rfl, (congrArg Prod.fst hout).symm, hnothing.trans (congrArg Prod.snd hout).symm, htags⟩
  · have hlen : 16 ≤ s.latch.inlen.toNat := Nat.le_of_not_lt hshort
    obtain ⟨u, hreach, hstart⟩ := msgStart_of_started hs fun _ => hlen
    have hdec : u.dec = true := (State.dec_congr hstart.latch).trans hd
    have hmlen : u.mlen = s.latch.inlen.toNat - 16 := (State.mlen_congr hstart.latch).trans (State.mlen_decrypt hd hlen)
    have hsized : Sized u := (hs.sized fun _ => hlen).congr hstart.latch
    obtain ⟨st, v, hrun, hst, hout, htags⟩ := decrypt_halts hstart hsized hdec
      (len := s.latch.inlen.toNat) (by omega)
    obtain ⟨n, hn⟩ := hreach.trans hrun
    have hcolm := colmDec_eq Config.chip s.periodic (s.mem.read .key 0 16) (s.mem.read .nonce 0 8)
      (s.mem.read .ad 0 s.latch.adlen.toNat) (s.mem.read .input 0 s.latch.inlen.toNat)
      (s.mem.read .tagIn 0 s.latch.taginlen.toNat) (by rwa [Memory.read_length])
    rw [Memory.read_length] at hcolm
    rw [hstart.rke, hstart.rkd hd, State.periodic_congr hstart.latch, hstart.chain, hstart.mem, hstart.latch, hmlen,
      State.nblk, hmlen] at hst hout
    exact ⟨n, _, hn, rfl, hst.trans (congrArg Prod.fst hcolm).symm, hout.trans (congrArg Prod.snd hcolm).symm,
      htags⟩

end Sys2Proof.Machine
end

section
/-! PROOFS of the family 44_colm127.md. One intermediate tag by itself: ITAG.GEN inside TAGOUT (R161), ITAG.CHK where the
tag passes (R162), and the failure of the three micro-operations that check one (R235, R236). -/

namespace Sys2Proof.Machine

/-! ## The two micro-operations (R161, R162) -/

/-- The registers change before the comparison, by the extra doubling; a check that passes then moves `TAGPOS`. -/
theorem itagChkStep_of_holds (c : Setup) {s : State} (hlen : s.work.tagpos.toNat + 16 ≤ s.latch.taginlen.toNat)
    (h : HoldsBytes s.mem .tagIn s.work.tagpos.toNat (itagValue c (dbl s.work.dc) s) 16) :
    itagChkStep c s = .go (advanceTagpos (extraDouble s)) :=
  itagCompare_of_holds (s := extraDouble s) hlen h

/-- TAGIN fails the check under the ciphertext offset `dc`: too few bytes, or others than the tag's (R235). -/
def TagWrong (c : Setup) (dc : Block) (s : State) : Prop :=
  s.latch.taginlen.toNat < s.work.tagpos.toNat + 16 ∨
    ¬ HoldsBytes s.mem .tagIn s.work.tagpos.toNat (itagValue c dc s) 16

theorem tagWrong_iff (c : Setup) (dc : Block) (s : State) :
    TagWrong c dc s ↔ ¬ (s.work.tagpos.toNat + 16 ≤ s.latch.taginlen.toNat ∧
      HoldsBytes s.mem .tagIn s.work.tagpos.toNat (itagValue c dc s) 16) := by
  rw [TagWrong, not_and_or, not_le]

theorem itagChkStep_of_wrong (c : Setup) {s : State} (h : TagWrong c (dbl s.work.dc) s) :
    itagChkStep c s = .halt .intermediateTagMismatch (extraDouble s) :=
  itagCompare_of_not (s := extraDouble s) ((tagWrong_iff ..).mp h)

/-- At a cadence point a wrong tag is one that does not fit. -/
theorem TagWrong.not_fits {c : Setup} {i : Len} {dc : Block} {s : State} (h : TagWrong c dc s)
    (hcad : s.cadence i = true) : ¬ TagFits c i dc s :=
  fun hfits => (tagWrong_iff ..).mp h (hfits hcad)

/-! ## The failure (R236) -/

/-- HALT sees nothing of the registers a failing check has changed: what it leaves, it leaves of the state before. -/
theorem finish_of_halt_mismatch {f : Flow} {s : State} {w : Work}
    (hf : f = .halt .intermediateTagMismatch { s with work := w }) :
    ∃ t, f.finish = .next t ∧ HaltedWith .intermediateTagMismatch s t ∧ t.outlen = 0#64 ∧ t.tagoutlen = 0#64 := by
  have hfailed : Status.intermediateTagMismatch ≠ .success := Status.noConfusion
  have hhalted : HaltedWith .intermediateTagMismatch s (haltWith .intermediateTagMismatch { s with work := w }) :=
    haltWith_halted_of_sameControl ((SameControl.refl s).update w s.mem s.phase) rfl _
  exact ⟨_, congrArg Flow.finish hf, hhalted, hhalted.outlen.trans (haltOutlen_failure s hfailed),
    hhalted.tagoutlen.trans (haltTagoutlen_failure s hfailed)⟩

/-! ## The statements -/

/-- Settles O36: a wrong tag makes each of the three micro-operations halt at its check, before anything is stored. -/
theorem intermediateTagMismatchIsRaised : Obligations.IntermediateTagMismatchIsRaised := by
  intro s tp wrong raises
  have tagWrong_of {dc : Block} (h : wrong dc) : TagWrong Config.chip dc s := h
  refine ⟨fun hcad hwrong => ?blkDec, fun hcad hwrong => ?finDec, fun hwrong => ?itagChk⟩
  case blkDec => exact finish_of_halt_mismatch (blkDecStep_of_not_fits _ ((tagWrong_of hwrong).not_fits hcad))
  case finDec => exact finish_of_halt_mismatch (finDecStep_of_not_fits _ ((tagWrong_of hwrong).not_fits hcad))
  case itagChk => exact finish_of_halt_mismatch (itagChkStep_of_wrong _ (tagWrong_of hwrong))

/-- Settles O40: the step's one store lies at the `TAGPOS` it had before it moved. -/
theorem itagGenResult : Obligations.ItagGenResult := by
  intro s tp dc hroom
  have hstep := itagGenStep_of_le (c := Config.chip) hroom
  have hcontrol := (itagGenStep_sameControl Config.chip (SameControl.refl s)).of_eq_go hstep
  exact ⟨_, congrArg Flow.finish hstep, hcontrol, rfl, rfl, HoldsBytes_storeBlock _ _ _ _ _ le_rfl,
    SameOutside_storeBlock _ _ _ _ _ le_rfl⟩

/-- Settles O41: the tag TAGIN is said to hold is the one compared, under the offset doubled once more. -/
theorem itagChkResult : Obligations.ItagChkResult := fun _ hlen hholds =>
  congrArg Flow.finish (itagChkStep_of_holds Config.chip hlen hholds)

end Sys2Proof.Machine
end

section
/-! PROOFS of the family 45_batched3.md, first part: the controller's turn follows the table of the phases
(46_commands_sequencer.md R210), with R180's condition for a group. -/

namespace Sys2Proof.Machine

/-- R180's condition, as the model tests it and as the rule writes it. -/
theorem State.groupReady_iff (s : State) :
    s.groupReady = true ↔ (s.nnf : Int) - s.work.idx.toNat + 1 ≥ 3 := by
  rw [State.groupReady, decide_eq_true_iff]
  omega

/-- The word issued in the message phase is the one of the table's instruction. -/
theorem decode_msgWord (s : State) :
    decode (.uop (msgWord s)) =
      .ok (if s.wide = true ∧ (s.nnf : Int) - s.work.idx.toNat + 1 ≥ 3 then (if s.dec then .b3Dec else .b3Enc)
        else if s.dec then .blkDec else .blkEnc) := by
  simp only [msgWord, ← State.groupReady_iff, Bool.and_eq_true]
  split_ifs <;> rfl

/-- Every entry of the table is issued, as the word of its instruction. -/
theorem issued_of_sequencerTable {s : State} {i : Instr} (h : sequencerTable s = some i) :
    ∃ u, issued s = some u ∧ decode (.uop u) = .ok i := by
  unfold sequencerTable at h
  unfold issued
  cases hp : s.phase <;> rw [hp] at h <;> cases h
  case msg => exact ⟨_, rfl, decode_msgWord s⟩
  case final => exact ⟨_, rfl, by split_ifs <;> rfl⟩
  all_goals exact ⟨_, rfl, rfl⟩

/-- A turn of the controller leaves the inbox. -/
theorem step_of_controllerMoves {s : State} (hw : s.issueWord = none) (hm : controllerMoves s = true) :
    step s = controllerTurn { s with inbox := s.inbox.tail } := by
  have hstep : step s = nextTurn s := by rw [step, stepOnce, hw]
  rw [hstep]
  unfold controllerMoves at hm
  unfold nextTurn
  split
  next hin =>
    have hsame : { s with inbox := s.inbox.tail } = s := by rw [hin, List.tail_nil, ← hin]
    rw [hsame]
  next rest hin => rw [hin, List.tail_cons]
  next e rest hin => simp [hin] at hm

theorem controllerTurn_of_busy {s : State} {u : BitVec 5} {i : Instr} (hb : s.busy = true) (hu : issued s = some u)
    (hd : decode (.uop u) = .ok i) : controllerTurn s = exec i s := by
  rw [controllerTurn, if_pos hb, hu]
  dsimp only
  rw [hd, runDecoded]

theorem controllerTurn_of_idle {s : State} (hb : s.busy = false) : controllerTurn s = .next s := by
  rw [controllerTurn, hb]
  rfl

/-- Settles O5: the turn issues the word of the table's instruction, or finds the controller idle. -/
theorem sequencerFollowsTheTable : Obligations.SequencerFollowsTheTable := by
  refine ⟨fun s i hw hm hb htable => ?_, fun s hw hm hb => ?_⟩
  · have hlater : sequencerTable { s with inbox := s.inbox.tail } = some i := htable
    obtain ⟨u, hu, hd⟩ := issued_of_sequencerTable hlater
    rw [step_of_controllerMoves hw hm]
    exact controllerTurn_of_busy hb hu hd
  · rw [step_of_controllerMoves hw hm]
    exact controllerTurn_of_idle hb

end Sys2Proof.Machine
end

section
/-! PROOFS of the family 45_batched3.md, second part: what the two directions of a group have in common (R181 to R183).
The registers after `n` lanes are given in closed form; the three stores, the checksum and the next index then follow at
once. At most one of the three lanes is a cadence point, so the only tag of a group is the one at the `TAGPOS` the group
began with. -/

namespace Sys2Proof.Machine

/-! ## The geometry of a group -/

/-- What the two length preconditions are for (46_commands_sequencer.md R211, 70_reset_and_hazards.md R268). -/
theorem sized_of_lengths {s : State} (henc : s.dec = false → s.latch.inlen.toNat ≤ 2 ^ 64 - 17)
    (hdec : s.dec = true → 16 ≤ s.latch.inlen.toNat) : Sized s := by
  have hin : s.spaceSize .input = s.latch.inlen.toNat := rfl
  have hout : s.spaceSize .out = min (if s.dec then s.mlen else s.mlen + 16) (2 ^ 64) := rfl
  have hlt := s.latch.inlen.isLt
  cases hd : s.dec with
  | false =>
    have hlen := henc hd
    have hmlen := State.mlen_encrypt hd
    constructor <;> simp only [hin, hout, hd, hmlen, Bool.false_eq_true, if_false]
    omega
  | true =>
    have hlen := hdec hd
    have hmlen := State.mlen_decrypt hd hlen
    constructor <;> simp only [hin, hout, hd, hmlen, if_true] <;> omega

theorem State.lane_zero (s : State) : s.lane 0 = s.work.idx := BitVec.add_zero _

section Geometry

variable {s : State} (hg : InGroup s) {j k n : Nat}
include hg

theorem InGroup.lane_address (hj : j < 3) : blockAddr (s.lane j) = blockAddr s.work.idx + 16 * j := by
  have hpos := hg.pos
  have hle := hg.le
  have hlt := s.nnf_lt
  have hlane : (s.lane j).toNat = s.work.idx.toNat + j := hg.lane_toNat rfl (by omega)
  rw [blockAddr_eq (by omega) (by omega), blockAddr_eq (by omega) (by omega), hlane]
  omega

theorem loadGroup_lanes (hz : Sized s) {t : State} (hl : t.latch = s.latch) (hi : t.work.idx = s.work.idx)
    (hm : t.mem = s.mem) (f : Block × Block × Block → Flow) :
    loadGroup t f = f (s.mem.loadBlock .input (blockAddr (s.lane 0)), s.mem.loadBlock .input (blockAddr (s.lane 1)),
      s.mem.loadBlock .input (blockAddr (s.lane 2))) := by
  have hgt : InGroup t := hg.congr hl hi
  have hin := (hz.congr hl).mlen_le_input
  rw [loadGroup_of_le (hgt.fits_first hin) (hgt.fits hin (j := 1) (by decide)) (hgt.fits hin (j := 2) (by decide)),
    State.lane_zero, hi, hm]
  rfl

/-- R181: three consecutive blocks hold at most one multiple of 127. -/
theorem InGroup.cadence_unique (hj : j < 3) (hk : k < 3) (hcj : s.cadence (s.lane j) = true)
    (hck : s.cadence (s.lane k) = true) : j = k := by
  have hlanej : (s.lane j).toNat = s.work.idx.toNat + j := hg.lane_toNat rfl (by omega)
  have hlanek : (s.lane k).toNat = s.work.idx.toNat + k := hg.lane_toNat rfl (by omega)
  simp only [State.cadence, hlanej, hlanek, Bool.and_eq_true, beq_iff_eq] at hcj hck
  omega

theorem InGroup.no_cadence_before (hj : j < 3) (hcj : s.cadence (s.lane j) = true) :
    ∀ k < j, s.cadence (s.lane k) = false := fun k hk =>
  Bool.eq_false_iff.mpr fun hck => absurd (hg.cadence_unique hj (by omega) hcj hck) (by omega)

end Geometry

/-! ### What changes at a cadence point only

`TAGPOS` and TAGOUT take the form of a quantity `q`, counted in lanes, that a cadence point changes by `g`. -/

section Cadence

variable {α : Type} {s : State} {q : Nat → α} {g : Nat → α → α} {j n : Nat}
  (hq : ∀ n, q (n + 1) = if s.cadence (s.lane n) then g n (q n) else q n)
include hq

theorem lanes_unchanged (h : ∀ k < n, s.cadence (s.lane k) = false) : q n = q 0 := by
  induction n with
  | zero => rfl
  | succ n ih =>
    rw [hq, h n (by omega), ← ih fun k hk => h k (by omega)]
    rfl

theorem InGroup.lanes_changed_once (hg : InGroup s) (hj : j < n) (hn : n ≤ 3) (hc : s.cadence (s.lane j) = true) :
    q n = g j (q 0) := by
  induction n with
  | zero => omega
  | succ n ih =>
    rw [hq]
    obtain rfl | hlt := (Nat.lt_succ_iff.mp hj).eq_or_lt
    · rw [if_pos hc, lanes_unchanged hq (hg.no_cadence_before (by omega) hc)]
    · have hn' : ¬ s.cadence (s.lane n) = true := fun hcn =>
        absurd (hg.cadence_unique (by omega) (by omega) hc hcn) (by omega)
      rw [if_neg hn', ih hlt (by omega)]

end Cadence

/-- `TAGPOS` after the first `n` lanes of a group. -/
def State.laneTagposAfter (s : State) : Nat → Len
  | 0 => s.work.tagpos
  | n + 1 => if s.cadence (s.lane n) then s.laneTagposAfter n + 16#64 else s.laneTagposAfter n

section Tagpos

variable {s : State} {j : Nat}

theorem State.laneTagposAfter_succ (s : State) (n : Nat) : s.laneTagposAfter (n + 1) =
    if s.cadence (s.lane n) then s.laneTagposAfter n + 16#64 else s.laneTagposAfter n := rfl

theorem State.laneTagpos_of_cadence (hj : j < 3) (hc : s.cadence (s.lane j) = true) :
    s.laneTagpos = s.work.tagpos + 16#64 := by
  refine if_pos ?_
  simp only [Bool.or_eq_true]
  interval_cases j
  · exact .inl (.inl hc)
  · exact .inl (.inr hc)
  · exact .inr hc

theorem State.laneTagpos_of_none (h : ∀ k < 3, s.cadence (s.lane k) = false) : s.laneTagpos = s.work.tagpos := by
  rw [State.laneTagpos, h 0 (by decide), h 1 (by decide), h 2 (by decide)]
  rfl

theorem laneTagpos_ne_of_cadence (hj : j < 3) (hc : s.cadence (s.lane j) = true) : s.laneTagpos ≠ s.work.tagpos := by
  rw [State.laneTagpos_of_cadence hj hc]
  bv_omega

/-- A group has a cadence point, or it has none. -/
theorem cadence_or_none (s : State) :
    (∃ j < 3, s.cadence (s.lane j) = true) ∨ ∀ k < 3, s.cadence (s.lane k) = false := by
  refine or_iff_not_imp_left.mpr fun h k hk => Bool.eq_false_iff.mpr fun hc => h ⟨k, hk, hc⟩

/-- Lane by lane `TAGPOS` comes to where the statements have it. -/
theorem InGroup.laneTagposAfter_three (hg : InGroup s) : s.laneTagposAfter 3 = s.laneTagpos := by
  obtain ⟨j, hj, hc⟩ | hnone := cadence_or_none s
  · rw [State.laneTagpos_of_cadence hj hc]
    exact hg.lanes_changed_once (g := fun _ a => a + 16#64) s.laneTagposAfter_succ hj le_rfl hc
  · rw [State.laneTagpos_of_none hnone]
    exact lanes_unchanged (g := fun _ a => a + 16#64) s.laneTagposAfter_succ hnone

/-- A cadence point finds `TAGPOS` as the group began with it. -/
theorem InGroup.laneTagposAfter_of_cadence (hg : InGroup s) (hj : j < 3) (hc : s.cadence (s.lane j) = true) :
    s.laneTagposAfter j = s.work.tagpos :=
  lanes_unchanged (g := fun _ a => a + 16#64) s.laneTagposAfter_succ (hg.no_cadence_before hj hc)

end Tagpos

/-! ## The registers after some lanes -/

/-- The first `n` lanes of the group at `s` have led to `t`, with the chaining states `chain`. -/
structure LanesPassed (chain : Nat → Block) (s : State) (n : Nat) (t : State) : Prop where
  latch : t.latch = s.latch
  work : t.work = { s.work with dc := s.laneOffset n, w := chain n, tagpos := s.laneTagposAfter n }

theorem LanesPassed.start {chain : Nat → Block} {s : State} (h : chain 0 = s.work.w) : LanesPassed chain s 0 s := by
  refine ⟨rfl, ?_⟩
  rw [h]
  rfl

section Lanes

variable {chain : Nat → Block} {s t : State} {n : Nat} (h : LanesPassed chain s n t)
include h

/-- One lane more, in either direction. -/
theorem LanesPassed.succ {u : State} {f : Block → Block → Block × Block} {x : Block}
    (hchain : chain (n + 1) = (f x (chain n)).2) (hl : u.latch = t.latch)
    (hw : u.work = laneWork f (t.cadence (s.lane n)) x t.work) : LanesPassed chain s (n + 1) u := by
  refine ⟨hl.trans h.latch, ?_⟩
  rw [hw, h.work, hchain, State.cadence_congr h.latch]
  rfl

theorem LanesPassed.dc_eq : t.work.dc = s.laneOffset n := by rw [h.work]

theorem LanesPassed.w_eq : t.work.w = chain n := by rw [h.work]

theorem LanesPassed.rke_eq : t.work.rke = s.work.rke := by rw [h.work]

theorem LanesPassed.rkd_eq : t.work.rkd = s.work.rkd := by rw [h.work]

theorem LanesPassed.tagpos_eq : t.work.tagpos = s.laneTagposAfter n := by rw [h.work]

theorem LanesPassed.cadence_eq (i : Len) : t.cadence i = s.cadence i := State.cadence_congr h.latch i

theorem LanesPassed.itagValue_eq (c : Setup) : itagValue c (s.laneOffset (n + 1)) t = s.laneTag c chain n := by
  rw [itagValue, encipher, h.rke_eq, h.w_eq, State.laneTag]

end Lanes

/-! ## Three blocks stored one behind the other -/

/-- Blocks stored in OUT one behind the other, from the address `a` on. -/
def storeRun (m : Memory) (a : Nat) (x : Nat → Block) : Nat → Memory
  | 0 => m
  | n + 1 => (storeRun m a x n).storeBlock .out (a + 16 * n) (x n) 16

theorem storeRun_sameOutside (m : Memory) (a : Nat) (x : Nat → Block) (n : Nat) :
    SameOutside m (storeRun m a x n) .out a (a + 16 * n) := by
  induction n with
  | zero => exact fun _ _ _ => rfl
  | succ n ih =>
    intro sp b hb
    have hlast : sp ≠ .out ∨ b < a + 16 * n ∨ a + 16 * n + 16 ≤ b := hb.imp_right fun h => by omega
    have hbefore : sp ≠ .out ∨ b < a ∨ a + 16 * n ≤ b := hb.imp_right fun h => by omega
    rw [storeRun, SameOutside_storeBlock _ _ _ _ _ le_rfl sp b hlast, ih sp b hbefore]

theorem storeRun_holds (m : Memory) (a : Nat) (x : Nat → Block) {j n : Nat} (hj : j < n) :
    HoldsBytes (storeRun m a x n) .out (a + 16 * j) (x j) 16 := by
  induction n with
  | zero => omega
  | succ n ih =>
    obtain rfl | hlt := (Nat.lt_succ_iff.mp hj).eq_or_lt
    · exact HoldsBytes_storeBlock _ _ _ _ _ le_rfl
    · intro b hb
      rw [storeRun, SameOutside_storeBlock _ _ _ _ _ le_rfl _ _ (.inr (by omega)), ih hlt b hb]

/-- The tag first, then the blocks. -/
theorem SameOutside.tagThenOut {m m' m'' : Memory} {lo hi tlo thi : Nat} (htag : SameOutside m m' .tagOut tlo thi)
    (hout : SameOutside m' m'' .out lo hi) : SameOutsideBoth m m'' lo hi tlo thi := fun sp b h ht => by
  rw [hout sp b (or_iff_not_imp_left.mpr fun hsp => h (not_not.mp hsp)),
    htag sp b (or_iff_not_imp_left.mpr fun hsp => ht (not_not.mp hsp))]

/-! ## The end of a group -/

/-- What a group leaves once its lanes have led from `s` to `t`: lane `j` delivers `d j`. -/
def groupEnd (s : State) (d : Nat → Delivery) (t : State) : State :=
  retarget (dblPow 3 s.work.dm) (s.work.idx + 3#64) (msgPhase (s.work.idx + 3#64) s) (deliverAll [d 0, d 1, d 2] t)

section GroupEnd

variable {chain : Nat → Block} {s t : State} {d : Nat → Delivery} (hg : InGroup s)
include hg

theorem groupEnd_work (h : LanesPassed chain s 3 t) :
    (groupEnd s d t).work = { s.work with
      dm := dblPow 3 s.work.dm
      dc := s.laneOffset 3
      w := chain 3
      cs := s.work.cs ^^^ (d 0).plain ^^^ (d 1).plain ^^^ (d 2).plain
      idx := s.work.idx + 3#64
      tagpos := s.laneTagpos } := by
  have hwork : (groupEnd s d t).work = { t.work with
    dm := dblPow 3 s.work.dm
    cs := t.work.cs ^^^ (d 0).plain ^^^ (d 1).plain ^^^ (d 2).plain
    idx := s.work.idx + 3#64 } := rfl
  rw [hwork, h.work, ← hg.laneTagposAfter_three]

variable (haddr : ∀ j, (d j).addr = blockAddr (s.lane j))
include haddr

/-- The stores, the checksum and the next index, all behind the lanes. -/
theorem groupEnd_eq (hz : Sized s) (hl : t.latch = s.latch) (ph : Phase) :
    ((storeGroup ((d 0).result, (d 1).result, (d 2).result) (retarget (dblPow 3 s.work.dm) s.work.idx ph t)).andThen
      fun u => .go (advanceMsg 3#64 (accumulateGroup ((d 0).plain, (d 1).plain, (d 2).plain) u))) =
    .go (groupEnd s d t) := by
  let u := retarget (dblPow 3 s.work.dm) s.work.idx ph t
  have hlatch : u.latch = s.latch := hl
  have hgu : InGroup u := hg.congr hlatch rfl
  have hout := (hz.congr hlatch).mlen_le_out
  have h0 : blockAddr u.work.idx = (d 0).addr := by
    rw [haddr, State.lane_zero]
    rfl
  have h1 : blockAddr (u.work.idx + 1#64) = (d 1).addr := (haddr 1).symm
  have h2 : blockAddr (u.work.idx + 2#64) = (d 2).addr := (haddr 2).symm
  have hphase : msgPhase (u.work.idx + 3#64) u = msgPhase (s.work.idx + 3#64) s := by
    rw [msgPhase, State.nnf_congr hlatch, msgPhase]
    rfl
  have hend : advanceMsg 3#64 _ = retarget (dblPow 3 s.work.dm) (s.work.idx + 3#64) _ _ :=
    advanceMsg_group u (d 0) (d 1) (d 2)
  rw [storeGroup_of_le (hgu.fits_first hout) (hgu.fits hout (j := 1) (by decide)) (hgu.fits hout (j := 2) (by decide)),
    Flow.andThen_go, h0, h1, h2, hend, hphase, deliverAll_retarget, retarget_retarget, groupEnd]

theorem groupEnd_mem :
    (groupEnd s d t).mem = storeRun t.mem (blockAddr s.work.idx) (fun j => (d j).result) 3 := by
  have hmem : (groupEnd s d t).mem = ((t.mem.storeBlock .out (d 0).addr (d 0).result 16).storeBlock .out
    (d 1).addr (d 1).result 16).storeBlock .out (d 2).addr (d 2).result 16 := rfl
  rw [hmem, haddr, haddr, haddr, hg.lane_address (by decide), hg.lane_address (by decide), hg.lane_address (by decide)]
  rfl

theorem groupEnd_holds {j : Nat} (hj : j < 3) :
    HoldsBytes (groupEnd s d t).mem .out (blockAddr (s.lane j)) (d j).result 16 := by
  rw [groupEnd_mem hg haddr, hg.lane_address hj]
  exact storeRun_holds _ _ (fun j => (d j).result) hj

theorem groupEnd_sameOutside :
    SameOutside t.mem (groupEnd s d t).mem .out (blockAddr s.work.idx) (blockAddr s.work.idx + 48) := by
  rw [groupEnd_mem hg haddr]
  exact storeRun_sameOutside _ _ _ 3

end GroupEnd

end Sys2Proof.Machine
end

section
/-! PROOFS of the family 45_batched3.md, third part: B3.ENC (R181). -/

namespace Sys2Proof.Machine

/-- The state after the first `n` lanes of B3.ENC. -/
def State.encLanes (c : Setup) (s : State) : Nat → State
  | 0 => s
  | n + 1 => laneEnd c (s.lane n) (s.lanePassEnc c n) (s.encLanes c n)

/-- What lane `j` of B3.ENC delivers. -/
def State.encGroupDelivery (c : Setup) (s : State) (j : Nat) : Delivery where
  addr := blockAddr (s.lane j)
  result := c.bcEnc s.work.rke (rho (s.lanePassEnc c j) (s.laneChainEnc c j)).1 ^^^ s.laneOffset (j + 1)
  plain := s.mem.loadBlock .input (blockAddr (s.lane j))

section Enc

variable (c : Setup) {s : State} {j n : Nat}

theorem encLanes_passed (s : State) (n : Nat) : LanesPassed (s.laneChainEnc c) s n (s.encLanes c n) := by
  induction n with
  | zero => exact .start rfl
  | succ n ih => exact ih.succ (f := rho) (x := s.lanePassEnc c n) rfl rfl rfl

/-! ## The tag of a group -/

theorem encLanes_mem_succ (s : State) (n : Nat) : (s.encLanes c (n + 1)).mem =
    if s.cadence (s.lane n) then
      (s.encLanes c n).mem.storeBlock .tagOut (s.laneTagposAfter n).toNat (s.laneTag c (s.laneChainEnc c) n) 16
    else (s.encLanes c n).mem := by
  have h := encLanes_passed c s n
  have hstored : (s.encLanes c (n + 1)).mem =
    tagStored c (s.lane n) (dbl (dbl (s.encLanes c n).work.dc)) (s.encLanes c n) := rfl
  rw [hstored, tagStored, h.cadence_eq, h.tagpos_eq, h.dc_eq]
  split_ifs with hc
  · have hoffset : s.laneOffset (n + 1) = dbl (dbl (s.laneOffset n)) := if_pos hc
    rw [← hoffset, h.itagValue_eq]
  · rfl

theorem encLanes_mem_of_none (hnone : ∀ k < n, s.cadence (s.lane k) = false) : (s.encLanes c n).mem = s.mem :=
  lanes_unchanged (q := fun n => (s.encLanes c n).mem)
    (g := fun n m => m.storeBlock .tagOut (s.laneTagposAfter n).toNat (s.laneTag c (s.laneChainEnc c) n) 16)
    (encLanes_mem_succ c s) hnone

/-- The one tag stands at the `TAGPOS` the group began with. -/
theorem encLanes_mem_of_cadence (hg : InGroup s) (hj : j < 3) (hc : s.cadence (s.lane j) = true) :
    (s.encLanes c 3).mem =
      s.mem.storeBlock .tagOut s.work.tagpos.toNat (s.laneTag c (s.laneChainEnc c) j) 16 := by
  rw [← hg.laneTagposAfter_of_cadence hj hc]
  exact hg.lanes_changed_once (q := fun n => (s.encLanes c n).mem)
    (g := fun n m => m.storeBlock .tagOut (s.laneTagposAfter n).toNat (s.laneTag c (s.laneChainEnc c) n) 16)
    (encLanes_mem_succ c s) hj le_rfl hc

theorem encLanes_loadBlock (s : State) (n a : Nat) :
    (s.encLanes c n).mem.loadBlock .input a = s.mem.loadBlock .input a := by
  induction n with
  | zero => rfl
  | succ n ih => exact (laneEnd_loadBlock ..).trans ih

/-- Where TAGOUT may change in a group. -/
def State.groupTagEnd (s : State) : Nat :=
  if s.laneTagpos = s.work.tagpos then s.work.tagpos.toNat else s.work.tagpos.toNat + 16

theorem groupTagEnd_of_cadence (hj : j < 3) (hc : s.cadence (s.lane j) = true) :
    s.groupTagEnd = s.work.tagpos.toNat + 16 := if_neg (laneTagpos_ne_of_cadence hj hc)

theorem encLanes_sameOutside (hg : InGroup s) :
    SameOutside s.mem (s.encLanes c 3).mem .tagOut s.work.tagpos.toNat s.groupTagEnd := by
  obtain ⟨j, hj, hc⟩ | hnone := cadence_or_none s
  · rw [encLanes_mem_of_cadence c hg hj hc, groupTagEnd_of_cadence hj hc]
    exact SameOutside_storeBlock _ _ _ _ _ le_rfl
  · rw [encLanes_mem_of_none c hnone]
    exact fun _ _ _ => rfl

/-- The tag stands in TAGOUT also after the blocks of the group are stored in OUT. -/
theorem groupEnd_encLanes_tag (hg : InGroup s) (hj : j < 3) (hc : s.cadence (s.lane j) = true) :
    HoldsBytes (groupEnd s (s.encGroupDelivery c) (s.encLanes c 3)).mem .tagOut s.work.tagpos.toNat
      (s.laneTag c (s.laneChainEnc c) j) 16 := fun b hb => by
  rw [groupEnd_sameOutside hg (d := s.encGroupDelivery c) (fun _ => rfl) _ _ (.inl Space.noConfusion),
    encLanes_mem_of_cadence c hg hj hc]
  exact HoldsBytes_storeBlock _ _ _ _ _ le_rfl b hb

/-! ## The micro-operation -/

/-- One lane whose tag has its room in TAGOUT. The message offset, the index and the phase are not its concern. -/
theorem encLane_next (hg : InGroup s) (hroom : s.groupTagEnd ≤ s.spaceSize .tagOut) (hn : n < 3) (dm : Block) (i : Len)
    (ph : Phase) (f : Block → Block → State → Flow) :
    encLane c (s.lane n) (s.lanePassEnc c n) (retarget dm i ph (s.encLanes c n)) f =
      f (s.laneOffset (n + 1)) (rho (s.lanePassEnc c n) (s.laneChainEnc c n)).1
        (retarget dm i ph (s.encLanes c (n + 1))) := by
  have h := encLanes_passed c s n
  have hlatch : (retarget dm i ph (s.encLanes c n)).latch = s.latch := h.latch
  have htag : TagRoom (s.lane n) (retarget dm i ph (s.encLanes c n)) := fun hc => by
    rw [State.cadence_congr hlatch] at hc
    have htagpos : (retarget dm i ph (s.encLanes c n)).work.tagpos = s.work.tagpos :=
      h.tagpos_eq.trans (hg.laneTagposAfter_of_cadence hn hc)
    rw [htagpos, State.spaceSize_congr hlatch, ← groupTagEnd_of_cadence hn hc]
    exact hroom
  have hw : (retarget dm i ph (s.encLanes c n)).work.w = s.laneChainEnc c n := h.w_eq
  have hdc : (laneEnd c (s.lane n) (s.lanePassEnc c n) (s.encLanes c n)).work.dc = s.laneOffset (n + 1) :=
    (encLanes_passed c s (n + 1)).dc_eq
  rw [encLane_of_room c htag, hw, laneEnd_retarget, retarget, ← hdc]
  rfl

/-- B3.ENC is its three lanes and then its end. -/
theorem b3EncStep_of_room (hz : Sized s) (hg : InGroup s) (hroom : s.groupTagEnd ≤ s.spaceSize .tagOut) :
    b3EncStep c s = .go (groupEnd s (s.encGroupDelivery c) (s.encLanes c 3)) := by
  have hlane := fun n (hn : n < 3) => encLane_next c hg hroom hn (dblPow 3 s.work.dm) s.work.idx s.phase
  have hload := loadGroup_lanes hg hz (t := retarget (dblPow 3 s.work.dm) s.work.idx s.phase s) rfl rfl rfl
  have hlane0 := hlane 0 (by decide)
  have hend := groupEnd_eq hg (d := s.encGroupDelivery c) (fun _ => rfl) hz (encLanes_passed c s 3).latch s.phase
  rw [State.lane_zero] at hlane0
  rw [b3EncStep]
  refine (hload _).trans ?_
  refine (hlane0 _).trans ((hlane 1 (by decide) _).trans ((hlane 2 (by decide) _).trans ?_))
  exact hend

end Enc

/-- Settles O46: the lanes, the one tag at the `TAGPOS` the group began with, and where its stores lie. -/
theorem b3EncResult : Obligations.B3EncResult := by
  intro s hdec hlen hpos hle a tp thi hroom E chain p idx
  have hz : Sized s := sized_of_lengths (fun _ => hlen) (by simp [hdec])
  have hg : InGroup s := ⟨hpos, hle⟩
  have hstep := b3EncStep_of_room Config.chip hz hg hroom
  have haddr (j : Nat) : (s.encGroupDelivery Config.chip j).addr = blockAddr (s.lane j) := rfl
  exact ⟨_, congrArg Flow.finish hstep, (b3EncStep_sameControl _ s).of_eq_go hstep,
    groupEnd_work hg (encLanes_passed Config.chip s 3), rfl, fun j hj => groupEnd_holds hg haddr hj,
    fun j hj hc => groupEnd_encLanes_tag Config.chip hg hj hc,
    SameOutside.tagThenOut (encLanes_sameOutside Config.chip hg) (groupEnd_sameOutside hg haddr)⟩

end Sys2Proof.Machine
end

section
/-! PROOFS of the family 45_batched3.md, fourth part: B3.DEC (R182), with a tag that passes and with one that fails. -/

namespace Sys2Proof.Machine

/-- The state after the first `n` lanes of B3.DEC, their tags passed. -/
def State.decLanes (c : Setup) (s : State) : Nat → State
  | 0 => s
  | n + 1 => decLaneEnd (s.lane n) (s.lanePassDec c n) (s.decLanes c n)

/-- What lane `j` of B3.DEC delivers: the block it recovers, to OUT and to the checksum. -/
def State.decGroupDelivery (c : Setup) (s : State) (j : Nat) : Delivery :=
  ⟨blockAddr (s.lane j), s.lanePlainDec c j, s.lanePlainDec c j⟩

/-- TAGIN holds the tag of lane `n` at `TAGPOS`, if the lane is a cadence point. -/
def State.LaneFits (c : Setup) (s : State) (n : Nat) : Prop :=
  s.cadence (s.lane n) = true → s.work.tagpos.toNat + 16 ≤ s.latch.taginlen.toNat ∧
    HoldsBytes s.mem .tagIn s.work.tagpos.toNat (s.laneTag c (s.laneChainDec c) n) 16

section Dec

variable (c : Setup) {s : State} {n : Nat}

theorem decLanes_passed (s : State) (n : Nat) : LanesPassed (s.laneChainDec c) s n (s.decLanes c n) := by
  induction n with
  | zero => exact .start rfl
  | succ n ih => exact ih.succ (f := rhoInv) (x := s.lanePassDec c n) rfl rfl rfl

theorem decLanes_mem (s : State) (n : Nat) : (s.decLanes c n).mem = s.mem := by
  induction n with
  | zero => rfl
  | succ n ih => exact ih

/-! ## One lane -/

/-- The check of a lane finds `TAGPOS` and TAGIN as the group began with them. -/
theorem tagFits_decLanes_iff (hg : InGroup s) (hn : n < 3) :
    TagFits c (s.lane n) (s.laneOffset (n + 1)) (s.decLanes c n) ↔ s.LaneFits c n := by
  have h := decLanes_passed c s n
  rw [TagFits, State.LaneFits, h.cadence_eq, h.latch, h.itagValue_eq, h.tagpos_eq, decLanes_mem]
  exact forall_congr' fun hc => by rw [hg.laneTagposAfter_of_cadence hn hc]

/-- All that one lane can do; a failing check raises with the memory as the group began with it, since no lane has
stored anything. The offsets of the whole group are set at its start. -/
theorem decLane_next (hg : InGroup s) (hn : n < 3) (dm dc : Block) (i : Len) (ph : Phase) :
    s.LaneFits c n ∧ (∀ f, decLane c (s.lane n) (s.laneOffset (n + 1)) (s.lanePassDec c n)
        (retarget dm i ph (presetDc dc (s.decLanes c n))) f =
          f (rhoInv (s.lanePassDec c n) (s.laneChainDec c n)).1
            (retarget dm i ph (presetDc dc (s.decLanes c (n + 1))))) ∨
      ¬ s.LaneFits c n ∧ ∃ u, u.mem = s.mem ∧ ∀ f, decLane c (s.lane n) (s.laneOffset (n + 1)) (s.lanePassDec c n)
        (retarget dm i ph (presetDc dc (s.decLanes c n))) f = .halt .intermediateTagMismatch u := by
  rw [← tagFits_decLanes_iff c hg hn, ← (decLanes_passed c s n).w_eq]
  exact (decLane_cases c (s.lane n) (s.laneOffset (n + 1)) (s.lanePassDec c n) (s.decLanes c n) dm dc i ph).imp_right
    (And.imp_right fun hraise => ⟨retarget dm i ph (presetDc dc (s.decLanes c n)), decLanes_mem c s n, hraise⟩)

/-! ## The micro-operation -/

/-- B3.DEC is its three lanes and then its end, or it raises at a lane whose tag does not fit. -/
theorem b3DecStep_cases (hz : Sized s) (hg : InGroup s) :
    (∀ n < 3, s.LaneFits c n) ∧ b3DecStep c s = .go (groupEnd s (s.decGroupDelivery c) (s.decLanes c 3)) ∨
      (∃ n < 3, ¬ s.LaneFits c n) ∧ ∃ u, u.mem = s.mem ∧ b3DecStep c s = .halt .intermediateTagMismatch u := by
  let om := dblPow 3 s.work.dm
  have hlane := fun n (hn : n < 3) => decLane_next c hg hn om (s.laneOffset 3) s.work.idx s.phase
  have hlane0 := hlane 0 (by decide)
  have hload := loadGroup_lanes hg hz (t := retarget om s.work.idx s.phase (presetDc (s.laneOffset 3) s)) rfl rfl rfl
  have hoc0 : decOffset s s.work.idx s.work.dc = s.laneOffset 1 := by
    rw [← State.lane_zero]
    rfl
  have hend := groupEnd_eq hg (d := s.decGroupDelivery c) (fun _ => rfl) hz (decLanes_passed c s 3).latch s.phase
  have hpreset : presetDc (s.laneOffset 3) (s.decLanes c 3) = s.decLanes c 3 := by
    rw [← (decLanes_passed c s 3).dc_eq, presetDc_self]
  rw [State.lane_zero] at hlane0
  rw [b3DecStep, hoc0]
  obtain ⟨hfit0, hgo0⟩ | ⟨hno, u, hu, hraise⟩ := hlane0
  case inr => exact .inr ⟨⟨0, by decide, hno⟩, u, hu, (hload _).trans (hraise _)⟩
  obtain ⟨hfit1, hgo1⟩ | ⟨hno, u, hu, hraise⟩ := hlane 1 (by decide)
  case inr => exact .inr ⟨⟨1, by decide, hno⟩, u, hu, (hload _).trans ((hgo0 _).trans (hraise _))⟩
  obtain ⟨hfit2, hgo2⟩ | ⟨hno, u, hu, hraise⟩ := hlane 2 (by decide)
  case inr =>
    exact .inr ⟨⟨2, by decide, hno⟩, u, hu, (hload _).trans ((hgo0 _).trans ((hgo1 _).trans (hraise _)))⟩
  rw [hpreset] at hgo2
  have hfits : ∀ n < 3, s.LaneFits c n := fun n hn => by
    interval_cases n
    · exact hfit0
    · exact hfit1
    · exact hfit2
  exact .inl ⟨hfits, (hload _).trans ((hgo0 _).trans ((hgo1 _).trans ((hgo2 _).trans hend)))⟩

theorem b3DecStep_of_fits (hz : Sized s) (hg : InGroup s) (hfits : ∀ n < 3, s.LaneFits c n) :
    b3DecStep c s = .go (groupEnd s (s.decGroupDelivery c) (s.decLanes c 3)) := by
  obtain ⟨-, hstep⟩ | ⟨⟨n, hn, hno⟩, -⟩ := b3DecStep_cases c hz hg
  · exact hstep
  · exact absurd (hfits n hn) hno

theorem b3DecStep_of_not_fits (hz : Sized s) (hg : InGroup s) (hn : n < 3) (hno : ¬ s.LaneFits c n) :
    ∃ u, u.mem = s.mem ∧ b3DecStep c s = .halt .intermediateTagMismatch u := by
  obtain ⟨hfits, -⟩ | ⟨-, hraise⟩ := b3DecStep_cases c hz hg
  · exact absurd (hfits n hn) hno
  · exact hraise

end Dec

/-! ## HALT after a failure -/

/-- A failure leaves no byte of OUT known (10_state.md R31; log entry 13). -/
theorem haltWith_failure_out {st : Status} (hst : st ≠ .success) (u : State) : (haltWith st u).mem.out.cells = [] := by
  rw [haltWith, haltOutlen_failure u hst]
  simp [Buffer.forgetFrom]

/-! ## The statements -/

/-- Settles O47: each lane that is a cadence point finds the tag TAGIN is said to hold. -/
theorem b3DecResult : Obligations.B3DecResult := by
  intro s hdec hlen hpos hle a tp chain q hfits idx
  have hz : Sized s := sized_of_lengths (by simp [hdec]) (fun _ => hlen)
  have hg : InGroup s := ⟨hpos, hle⟩
  have hstep := b3DecStep_of_fits Config.chip hz hg hfits
  have haddr (j : Nat) : (s.decGroupDelivery Config.chip j).addr = blockAddr (s.lane j) := rfl
  have hout := groupEnd_sameOutside hg haddr (t := s.decLanes Config.chip 3)
  rw [decLanes_mem] at hout
  exact ⟨_, congrArg Flow.finish hstep, (b3DecStep_sameControl _ s).of_eq_go hstep,
    groupEnd_work hg (decLanes_passed Config.chip s 3), rfl, fun j hj => groupEnd_holds hg haddr hj, hout⟩

/-- Settles O48: the group raises before its stores, and HALT forgets OUT. -/
theorem b3DecRaises : Obligations.B3DecRaises := by
  intro s j hdec hlen hpos hle hj hc hwrong
  have hz : Sized s := sized_of_lengths (by simp [hdec]) (fun _ => hlen)
  have hg : InGroup s := ⟨hpos, hle⟩
  have hno : ¬ s.LaneFits Config.chip j := fun hfits => by
    obtain ⟨hlong, hholds⟩ := hfits hc
    exact hwrong.elim (fun hshort => by omega) (fun hne => hne hholds)
  obtain ⟨u, hu, hraise⟩ := b3DecStep_of_not_fits Config.chip hz hg hj hno
  have hcontrol : SameControl s u := by
    have hall := b3DecStep_sameControl Config.chip s
    rw [hraise] at hall
    exact hall
  have hfailed : Status.intermediateTagMismatch ≠ .success := Status.noConfusion
  exact ⟨⟨u, hraise, hu⟩, _, congrArg Flow.finish hraise, haltWith_halted_of_sameControl hcontrol hu _,
    haltOutlen_failure u hfailed, haltWith_failure_out hfailed u⟩

end Sys2Proof.Machine
end

section
/-! PROOFS of the family 46_commands_sequencer.md, first part: the host's events and the commands by themselves (R200 to
R212). A step is one host event on the state with that turn taken away; each of the eight command words is `launch`. -/

namespace Sys2Proof.Machine

/-! ## A step on the host's turn (R200) -/

theorem step_of_hostTurn {e : HostEvent} {rest : List Turn} {s : State} (h : hostTurn e rest s) :
    step s = hostAct e { s with inbox := rest } := by
  obtain ⟨hword, hinbox⟩ := h
  simp only [step, stepOnce, hword, nextTurn, hinbox]

theorem step_of_issueWord {s : State} {w : IssueWord} (h : s.issueWord = some w) :
    step s = runDecoded (decodeBits w.nbits w.bits) { s with issueWord := none } := by
  simp only [step, stepOnce, h]

theorem runDecoded_of_ok {d : Except DecodeError Instr} {i : Instr} (h : d = .ok i) (s : State) :
    runDecoded d s = exec i s := by
  rw [h, runDecoded]

/-- Settles O4: the three ways a word reaches `exec`. -/
theorem stepRunsTheDecodedInstruction : Obligations.StepRunsTheDecodedInstruction := by
  refine ⟨fun s w i hword hd => ?_, fun s u i hword hmoves hb hu hd => ?_, fun s rest i hturn hd => ?_⟩
  · exact (step_of_issueWord hword).trans (runDecoded_of_ok hd _)
  · rw [step_of_controllerMoves hword hmoves]
    exact controllerTurn_of_busy hb hu hd
  · exact (step_of_hostTurn hturn).trans (runDecoded_of_ok hd _)

/-! ## Register accesses (R200, R201) -/

theorem hostAct_write_of_idle {s : State} (hb : s.busy = false) (reg : WritableReg) (v : Nat) :
    hostAct (.write reg v) s = .next { s with host := writeReg reg v s.host } := by
  rw [hostAct, hb]
  rfl

theorem hostAct_write_of_busy {s : State} (hb : s.busy = true) (reg : WritableReg) (v : Nat) :
    hostAct (.write reg v) s = .next s := by
  rw [hostAct, if_pos hb]

/-- Settles O17: `BUSY` decides between the write and nothing. -/
theorem registerWritesTakeEffectOnlyWhenIdle : Obligations.RegisterWritesTakeEffectOnlyWhenIdle := by
  refine ⟨fun s rest v hb => ?_, fun s rest reg v hb hturn => ?_⟩
  · have hwrite (reg : WritableReg) (hturn : hostTurn (.write reg v) rest s) :
        step s = .next { s with inbox := rest, host := writeReg reg v s.host } :=
      (step_of_hostTurn hturn).trans (hostAct_write_of_idle (s := { s with inbox := rest }) hb reg v)
    exact ⟨hwrite .cmd, hwrite .adlen, hwrite .inlen, hwrite .taginlen⟩
  · exact (step_of_hostTurn hturn).trans (hostAct_write_of_busy (s := { s with inbox := rest }) hb reg v)

/-! ## Buffer accesses (R200, 70_reset_and_hazards.md R263) -/

theorem hostBuffer_of_idle {s t : State} (hb : s.busy = false) {sp : Space} {a n : Nat} (h : a + n ≤ sp.hostBytes) :
    hostBuffer s sp a n t = .next t := hostBuffer_eq_next.mpr ⟨hb, h, rfl⟩

theorem hostBuffer_of_busy {s : State} (hb : s.busy = true) (sp : Space) (a n : Nat) (t : State) :
    hostBuffer s sp a n t = .refused .bufferWhileBusy := if_pos hb

theorem Memory.readByte_write_getElem (m : Memory) (sp : Space) (a : Nat) (bs : List Byte) {j : Nat}
    (h : j < bs.length) : (m.write sp a bs).readByte sp (a + j) = bs[j] := by
  rw [Memory.readByte_write, dif_pos ⟨rfl, by omega, by omega⟩]
  simp only [Nat.add_sub_cancel_left]

/-- Settles O18: a write inside the space is the model's `Memory.write`. -/
theorem hostWritesBuffers : Obligations.HostWritesBuffers := by
  intro s rest sp a bytes hturn
  have hstep := step_of_hostTurn hturn
  refine ⟨fun hb hin => ?_, fun hb => hstep.trans (hostBuffer_of_busy (s := { s with inbox := rest }) hb ..)⟩
  exact ⟨_, hstep.trans (hostBuffer_of_idle (s := { s with inbox := rest }) hb hin), rfl,
    fun j hj => Memory.readByte_write_getElem _ _ _ _ hj, fun _ _ h => Memory.readByte_write_of_not h⟩

/-- Settles O19: a READ answers `readReg`, a READBUF the bytes of `Memory.read`, and the answer is all they change. -/
theorem hostReadsHaveNoSideEffect : Obligations.HostReadsHaveNoSideEffect := by
  refine ⟨fun s rest => ?_, fun s rest sp a n hturn => ⟨fun hb hin => ?_, fun hb => ?_⟩⟩
  · intro answers
    have hread (reg : ReadableReg) : answers reg (readReg reg s) := step_of_hostTurn
    have hcmd : readReg .cmd s = BitVec.ofNat 64 s.host.cmd.toNat :=
      BitVec.eq_of_toNat_eq (by simp [readReg])
    have hstatus (st : Status) (hst : s.status = st) : answers .status (st.code.setWidth 64) := hst ▸ hread .status
    exact ⟨hcmd ▸ hread .cmd, hread .adlen, hread .inlen, hread .taginlen, hread .busy, hread .done,
      hstatus .success, hstatus .invalidLength, hstatus .tagMismatch, hstatus .badPaddingMarker,
      hstatus .badPaddingTail, hstatus .intermediateTagMismatch, hread .outlen, hread .tagoutlen⟩
  · have hroom : a.toNat + n ≤ sp.space.hostBytes := by cases sp <;> exact hin
    exact ⟨s.mem.read sp.space a.toNat n,
      (step_of_hostTurn hturn).trans (hostBuffer_of_idle (s := { s with inbox := rest }) hb hroom),
      Memory.read_length .., fun _ hj => Memory.getElem_read hj⟩
  · exact (step_of_hostTurn hturn).trans (hostBuffer_of_busy (s := { s with inbox := rest }) hb ..)

/-! ## START and the command words (R202, R207, R217 to R224) -/

/-- Every command word is START with that word (log entry 8). -/
theorem exec_of_encode_cmd {i : Instr} {w : BitVec 3} (h : encode i = .cmd w) (s : State) : exec i s = launch w s := by
  cases i <;> cases h
  all_goals rfl

theorem hostAct_start (s : State) : hostAct .start s = launch s.host.cmd s :=
  exec_of_encode_cmd (encode_decodeCmd s.host.cmd) s

theorem launchable_iff (w : BitVec 3) (s : State) :
    launchable w s = true ↔ w.getLsbD 0 = true ∨ s.host.inlen.toNat ≤ 2 ^ 64 - 17 := by
  rw [launchable, Bool.or_eq_true, decide_eq_true_iff]

theorem launch_of_busy (w : BitVec 3) {s : State} (hb : s.busy = true) : launch w s = .next s := if_pos hb

theorem launch_of_idle {w : BitVec 3} {s : State} (hb : s.busy = false)
    (hlen : w.getLsbD 0 = true ∨ s.host.inlen.toNat ≤ 2 ^ 64 - 17) :
    launch w s = .next { s with latch := { s.host with cmd := w }, busy := true, done := false, phase := .check } :=
  launch_eq_next.mpr (.inr ⟨hb, (launchable_iff w s).mpr hlen, rfl⟩)

theorem launch_of_too_long {w : BitVec 3} {s : State} (hb : s.busy = false) (hd : w.getLsbD 0 = false)
    (hlen : 2 ^ 64 - 17 < s.host.inlen.toNat) : launch w s = .refused .encryptTooLong := by
  have hno : ¬ launchable w s = true := by
    rw [launchable_iff, hd]
    exact fun h => h.elim Bool.false_ne_true (Nat.not_le.mpr hlen)
  rw [launch, hb, if_neg Bool.false_ne_true, if_neg hno]

/-- Settles O23: the host's START is `launch` with the word in `CMD`. -/
theorem startLatchesTheCommand : Obligations.StartLatchesTheCommand := fun s rest hturn hb hlen =>
  (step_of_hostTurn hturn).trans
    ((hostAct_start _).trans (launch_of_idle (s := { s with inbox := rest }) hb hlen))

/-- Settles O24: each of the eight instructions is `launch` with its own word. -/
theorem commandWordsStartTheirCommand : Obligations.CommandWordsStartTheirCommand := by
  intro s i w hmem hb
  have hword : encode i = .cmd w := by
    simp only [List.mem_cons, Prod.mk.injEq, List.not_mem_nil, or_false] at hmem
    obtain ⟨rfl, rfl⟩ | ⟨rfl, rfl⟩ | ⟨rfl, rfl⟩ | ⟨rfl, rfl⟩ | ⟨rfl, rfl⟩ | ⟨rfl, rfl⟩ | ⟨rfl, rfl⟩ | ⟨rfl, rfl⟩ := hmem
    all_goals rfl
  rw [exec_of_encode_cmd hword]
  exact ⟨launch_of_idle hb, launch_of_too_long hb⟩

/-- Settles O25: `launch` leaves a busy state as it is. -/
theorem startWhileBusyIsIgnored : Obligations.StartWhileBusyIsIgnored := by
  refine ⟨fun s rest hturn hb => ?_, fun s i hmem hb => ?_⟩
  · exact (step_of_hostTurn hturn).trans ((hostAct_start _).trans (launch_of_busy (s := { s with inbox := rest }) _ hb))
  · have hword : ∃ w, encode i = .cmd w := by
      simp only [List.mem_cons, List.not_mem_nil, or_false] at hmem
      obtain rfl | rfl | rfl | rfl | rfl | rfl | rfl | rfl := hmem
      all_goals exact ⟨_, rfl⟩
    obtain ⟨w, hw⟩ := hword
    rw [exec_of_encode_cmd hw, launch_of_busy w hb]

/-! ## CHK.LEN and HALT (R211, R212) -/

theorem lengthTooShort_iff (s : State) : lengthTooShort s = true ↔ s.dec = true ∧ s.latch.inlen.toNat < 16 := by
  rw [lengthTooShort, Bool.and_eq_true, decide_eq_true_iff]

theorem chkLenStep_of_short {s : State} (h : s.dec = true ∧ s.latch.inlen.toNat < 16) :
    chkLenStep s = .halt .invalidLength s := if_pos ((lengthTooShort_iff s).mpr h)

theorem chkLenStep_of_not_short {s : State} (h : ¬ (s.dec = true ∧ s.latch.inlen.toNat < 16)) :
    chkLenStep s = .go { s with phase := .init } := if_neg (mt (lengthTooShort_iff s).mp h)

/-- Settles O26: the length decides between HALT and INIT. -/
theorem chkLenRefusesShortStreams : Obligations.ChkLenRefusesShortStreams := by
  intro s
  refine ⟨fun h => ?_, fun h => congrArg Flow.finish (chkLenStep_of_not_short ?_)⟩
  · have hfailed : Status.invalidLength ≠ .success := Status.noConfusion
    exact ⟨_, congrArg Flow.finish (chkLenStep_of_short h), haltWith_halted _ s, haltOutlen_failure s hfailed,
      haltTagoutlen_failure s hfailed⟩
  · rintro ⟨hd, hlt⟩
    obtain henc | hlen := h
    · exact Bool.false_ne_true (henc.symm.trans hd)
    · omega

/-! R212 for a command that succeeds. -/

theorem haltOutlen_success (s : State) :
    haltOutlen .success s = BitVec.ofNat 64 (if s.dec = true then s.mlen else s.mlen + 16) := if_pos rfl

theorem haltTagoutlen_success (s : State) : haltTagoutlen .success s =
    if s.dec = false ∧ s.periodic = true then BitVec.ofNat 64 (16 * s.ntag) else 0#64 := by
  simp only [haltTagoutlen, true_and]

/-- Settles O27: HALT with the status on the wire. -/
theorem haltReportsTheResult : Obligations.HaltReportsTheResult := by
  intro s
  refine ⟨haltWith s.ports.haltArg s, rfl, rfl, rfl, rfl, rfl, fun hok => ?_, fun hfailed => ?_, haltWith_halted _ s⟩
  · rw [hok]
    exact ⟨haltOutlen_success s, haltTagoutlen_success s⟩
  · exact ⟨haltOutlen_failure s hfailed, haltTagoutlen_failure s hfailed⟩

end Sys2Proof.Machine
end

section
/-! PROOFS of the family 46_commands_sequencer.md, second part: what a step of the controller leaves (R210). In a
consistent state each micro-operation goes on to a phase that its registers fit, with fewer steps left, or it ends the
command by HALT. The invariant of the sequencer and the bound on a command's length (R215) both follow. -/

namespace Sys2Proof.Machine

/-! ## What a micro-operation leaves -/

/-- The same command is under way: no micro-operation but HALT changes these fields. -/
structure SameRun (s t : State) : Prop where
  latch : t.latch = s.latch
  busy : t.busy = s.busy
  done : t.done = s.done
  ports : t.ports = s.ports
  inbox : t.inbox = s.inbox
  issueWord : t.issueWord = s.issueWord

theorem SameControl.sameRun {s t : State} (h : SameControl s t) : SameRun s t :=
  ⟨h.latch, h.busy, h.done, h.ports, h.inbox, h.issueWord⟩

theorem SameRun.trans {s t u : State} (h : SameRun s t) (h' : SameRun t u) : SameRun s u :=
  ⟨h'.latch.trans h.latch, h'.busy.trans h.busy, h'.done.trans h.done, h'.ports.trans h.ports,
    h'.inbox.trans h.inbox, h'.issueWord.trans h.issueWord⟩

theorem Alone.of_sameRun {s t : State} (h : Alone s) (hr : SameRun s t) : Alone t :=
  ⟨hr.issueWord.trans h.noWord, hr.inbox.trans h.noHost, hr.busy.trans h.busy⟩

/-- The registers fit the phase `p`, which a micro-operation enters: the part of `Consistent` that speaks of it. -/
def FitsPhase (p : Phase) (s : State) : Prop :=
  match p with
  | .idle | .check => False
  | .init | .tag => True
  | .macSeed => s.work.aidx = 0#64 ∧ s.work.idx = 1#64 ∧ s.work.tagpos = 0#64
  | .macFull => s.work.aidx.toNat < s.afull ∧ s.work.idx = 1#64 ∧ s.work.tagpos = 0#64
  | .macFinal | .macDone => s.work.idx = 1#64 ∧ s.work.tagpos = 0#64
  | .msg => (1 ≤ s.work.idx.toNat ∧ s.work.idx.toNat ≤ s.nnf) ∧
      s.work.tagpos.toNat = s.tagBytesBefore s.work.idx.toNat
  | .finOfs => s.work.idx.toNat = s.nnf + 1 ∧ s.work.tagpos.toNat = s.tagBytesBefore s.work.idx.toNat
  | .final => (s.work.idx.toNat = s.nnf + 1 ∧ 0 < s.nblk) ∧
      s.work.tagpos.toNat = s.tagBytesBefore s.work.idx.toNat
  | .tagChk => s.dec = true
  | .padChk => s.dec = true ∧ 0 < s.rlen

/-- How many micro-operations are left at most from the phase `p` on (R215): one a phase, but one a full block of the
associated data and one a non-final block of the message. -/
def stepsLeftIn (p : Phase) (nnf afull idx aidx : Nat) : Nat :=
  match p with
  | .idle => 0
  | .padChk => 1
  | .tagChk => 2
  | .tag => 3
  | .final => 4
  | .finOfs => 5
  | .msg => 5 + (nnf + 1 - idx)
  | .macDone => 6 + nnf
  | .macFinal => 7 + nnf
  | .macFull => 7 + nnf + (afull - aidx)
  | .macSeed => 8 + nnf + afull
  | .init => 9 + nnf + afull
  | .check => 10 + nnf + afull

def State.stepsLeft (s : State) : Nat := stepsLeftIn s.phase s.nnf s.afull s.work.idx.toNat s.work.aidx.toNat

/-- The command of `s` may go on in `t`. -/
structure GoesOn (s t : State) : Prop where
  run : SameRun s t
  length : t.dec = true → 16 ≤ t.latch.inlen.toNat
  fits : FitsPhase t.phase t
  fewer : t.stepsLeft < s.stepsLeft

/-- A step from the phase `p` to the phase `q`. -/
theorem GoesOn.of_phases {s t : State} {p q : Phase} (hp : s.phase = p) (hq : t.phase = q) (hr : SameRun s t)
    (hlen : s.dec = true → 16 ≤ s.latch.inlen.toNat) (hfits : FitsPhase q t)
    (hfewer : stepsLeftIn q s.nnf s.afull t.work.idx.toNat t.work.aidx.toNat <
      stepsLeftIn p s.nnf s.afull s.work.idx.toNat s.work.aidx.toNat) : GoesOn s t where
  run := hr
  length := by
    rw [State.dec_congr hr.latch, hr.latch]
    exact hlen
  fits := hq ▸ hfits
  fewer := by
    rw [State.stepsLeft, State.stepsLeft, hp, hq, State.nnf_congr hr.latch, State.afull_congr hr.latch]
    exact hfewer

/-- The micro-operation goes on, or it meets HALT, in an encrypt command with Success. -/
def Flow.MovesOn (s : State) : Flow → Prop
  | .go t => GoesOn s t
  | .halt st v => SameControl s v ∧ (s.dec = false → st = .success)
  | .fault _ => False

/-! ## The non-final blocks (43_colm0.md R141, R148; 45_batched3.md R181, R182) -/

/-- `t` is `n` non-final blocks further than `s`. -/
structure BlocksDone (s : State) (n : Nat) (t : State) : Prop where
  control : SameControl s t
  idx : t.work.idx.toNat = s.work.idx.toNat + n
  le : t.work.idx.toNat ≤ t.nnf + 1
  tagpos : t.work.tagpos.toNat = t.tagBytesBefore t.work.idx.toNat
  phase : t.phase = msgPhase t.work.idx t

theorem State.tagBytesBefore_congr {s t : State} (hl : t.latch = s.latch) (i : Nat) :
    t.tagBytesBefore i = s.tagBytesBefore i := by
  rw [State.tagBytesBefore_eq, State.tagBytesBefore_eq, State.periodic_congr hl]

theorem BlocksDone.trans {s t u : State} {m n : Nat} (h : BlocksDone s m t) (h' : BlocksDone t n u) :
    BlocksDone s (m + n) u :=
  ⟨h.control.trans h'.control, by rw [h'.idx, h.idx, Nat.add_assoc], h'.le, h'.tagpos, h'.phase⟩

theorem BlocksDone.atMsg {s t : State} {n : Nat} (h : BlocksDone s n t) (hs : AtMsg s)
    (hle : s.work.idx.toNat + n ≤ s.nnf) : AtMsg t where
  sized := hs.sized.congr h.control.latch
  pos := by rw [h.idx]; exact hs.pos.trans (Nat.le_add_right _ _)
  le := by rw [h.idx, State.nnf_congr h.control.latch]; exact hle
  tagpos := h.tagpos

/-- The message goes on, or is at its final stage. -/
theorem BlocksDone.goesOn {s t : State} {n : Nat} (h : BlocksDone s n t) (hs : AtMsg s) (hp : s.phase = .msg)
    (hlen : s.dec = true → 16 ≤ s.latch.inlen.toNat) (hn : 0 < n) : GoesOn s t := by
  have hidx := h.idx
  have hpos := hs.pos
  have hle := hs.le
  have hend := h.le
  have hnnf := State.nnf_congr h.control.latch
  have hphase := h.phase
  rw [msgPhase] at hphase
  split_ifs at hphase with hmsg
  · refine .of_phases hp hphase h.control.sameRun hlen ⟨⟨by omega, hmsg⟩, h.tagpos⟩ ?_
    simp only [stepsLeftIn]
    omega
  · refine .of_phases hp hphase h.control.sameRun hlen ⟨by omega, h.tagpos⟩ ?_
    simp only [stepsLeftIn]
    omega

/-- One block more: the index, `TAGPOS` and the phase are all that matters of it. -/
theorem AtMsg.blocksDone {s t : State} (h : AtMsg s) (hc : SameControl s t) (hidx : t.work.idx = s.work.idx + 1#64)
    (htagpos : t.work.tagpos = if s.cadence s.work.idx then s.work.tagpos + 16#64 else s.work.tagpos)
    (hphase : t.phase = if (s.work.idx + 1#64).toNat ≤ s.nnf then .msg else .finOfs) : BlocksDone s 1 t := by
  have hle := h.le
  have hlt := s.nnf_lt
  have hnext : (s.work.idx + 1#64).toNat = s.work.idx.toNat + 1 := toNat_add_of_lt (n := 1) (by omega)
  refine ⟨hc, by rw [hidx, hnext], ?le, ?tagpos, ?phase⟩
  case le =>
    rw [hidx, hnext, State.nnf_congr hc.latch]
    omega
  case tagpos =>
    rw [htagpos, hidx, hnext, State.tagBytesBefore_congr hc.latch]
    exact AtBlock.tagPassed h.tagpos h.pos h.le_nblk
  case phase => rw [hphase, msgPhase, hidx, State.nnf_congr hc.latch]

theorem AtMsg.blkEncEnd_done (c : Setup) {s : State} (h : AtMsg s) : BlocksDone s 1 (blkEncEnd c s) :=
  h.blocksDone ((blkEncStep_sameControl c s).of_eq_go (h.blkEncStep_eq c)) rfl rfl rfl

/-- All that BLK.DEC can do in the message phase. -/
theorem AtMsg.blkDecStep_cases (c : Setup) {s : State} (h : AtMsg s) :
    blkDecStep c s = .go (blkDecEnd c s) ∧ BlocksDone s 1 (blkDecEnd c s) ∨
      blkDecStep c s = .halt .intermediateTagMismatch (extraDouble (offsets dbl s)) := by
  by_cases htag : TagFits c s.work.idx (dbl (dbl s.work.dc)) s
  · have hstep := h.blkDecStep_eq c htag
    exact .inl ⟨hstep, h.blocksDone ((blkDecStep_sameControl c s).of_eq_go hstep) rfl rfl rfl⟩
  · exact .inr (blkDecStep_of_not_fits c htag)

/-- A flow that comes `n` blocks further, or raises a failure of a decrypt command. -/
def Flow.Delivers (s : State) (n : Nat) : Flow → Prop
  | .go t => BlocksDone s n t
  | .halt _ v => SameControl s v ∧ s.dec = true
  | .fault _ => False

theorem Flow.Delivers.andThen {s : State} {f : Flow} {k : State → Flow} {m n : Nat} (h : f.Delivers s m)
    (hk : ∀ t, BlocksDone s m t → (k t).Delivers t n) : (f.andThen k).Delivers s (m + n) := by
  cases f with
  | go t =>
    have hkt := hk t h
    rw [Flow.andThen_go]
    cases hf : k t with
    | go u =>
      rw [hf] at hkt
      exact BlocksDone.trans h hkt
    | halt st v =>
      rw [hf] at hkt
      exact ⟨h.control.trans hkt.1, (State.dec_congr h.control.latch).symm.trans hkt.2⟩
    | fault r =>
      rw [hf] at hkt
      exact hkt
  | halt st v => exact h
  | fault r => exact h

theorem Flow.Delivers.movesOn {s : State} {f : Flow} {n : Nat} (h : f.Delivers s n) (hs : AtMsg s) (hp : s.phase = .msg)
    (hlen : s.dec = true → 16 ≤ s.latch.inlen.toNat) (hn : 0 < n) : f.MovesOn s := by
  cases f with
  | go t => exact BlocksDone.goesOn h hs hp hlen hn
  | halt st v => exact ⟨h.1, fun hd => absurd (hd.symm.trans h.2) Bool.false_ne_true⟩
  | fault r => exact h

theorem AtMsg.blkEncStep_delivers (c : Setup) {s : State} (h : AtMsg s) : (blkEncStep c s).Delivers s 1 := by
  rw [h.blkEncStep_eq c]
  exact h.blkEncEnd_done c

theorem AtMsg.blkDecStep_delivers (c : Setup) {s : State} (h : AtMsg s) (hd : s.dec = true) :
    (blkDecStep c s).Delivers s 1 := by
  obtain ⟨hstep, hdone⟩ | hstep := h.blkDecStep_cases c
  · rw [hstep]
    exact hdone
  · rw [hstep]
    exact ⟨(SameControl.refl s).update _ _ _, hd⟩

/-- One block of the running command. -/
def blkStep (c : Setup) (s : State) : Flow := if s.dec then blkDecStep c s else blkEncStep c s

theorem AtMsg.blkStep_delivers (c : Setup) {s : State} (h : AtMsg s) : (blkStep c s).Delivers s 1 := by
  unfold blkStep
  split_ifs with hd
  · exact h.blkDecStep_delivers c hd
  · exact h.blkEncStep_delivers c

/-- Three blocks of the running command, no further after a HALT (45_batched3.md R185). -/
def threeBlkSteps (c : Setup) (s : State) : Flow :=
  (blkStep c s).andThen fun t => (blkStep c t).andThen (blkStep c)

theorem AtMsg.threeBlkSteps_delivers (c : Setup) {s : State} (h : AtMsg s) (hg : InGroup s) :
    (threeBlkSteps c s).Delivers s 3 := by
  have hle := hg.le
  refine Flow.Delivers.andThen (m := 1) (n := 2) (h.blkStep_delivers c) fun t ht => ?_
  have hidx := ht.idx
  have hnnf : t.nnf = s.nnf := State.nnf_congr ht.control.latch
  have hat : AtMsg t := ht.atMsg h (by omega)
  exact Flow.Delivers.andThen (m := 1) (n := 1) (hat.blkStep_delivers c) fun u hu =>
    (hu.atMsg hat (by omega)).blkStep_delivers c

/-- A group, in either direction, ends as three blocks do. -/
theorem AtMsg.group_finish (c : Setup) {s : State} (h : AtMsg s) (hg : InGroup s) :
    (if s.dec then b3DecStep c s else b3EncStep c s).finish = (threeBlkSteps c s).finish := by
  have hle := hg.le
  cases hd : s.dec with
  | false =>
    have hone {t : State} {n : Nat} (ht : BlocksDone s n t) (hn : s.work.idx.toNat + n ≤ s.nnf) :
        blkStep c t = .go (blkEncEnd c t) := by
      have hdec : ¬ t.dec = true := by rw [State.dec_congr ht.control.latch, hd]; exact Bool.false_ne_true
      exact (if_neg hdec).trans ((ht.atMsg h hn).blkEncStep_eq c)
    have h1 := h.blkEncEnd_done c
    have hat1 := h1.atMsg h (by omega)
    have h2 := h1.trans (hat1.blkEncEnd_done c)
    have hzero : blkStep c s = .go (blkEncEnd c s) := by
      rw [blkStep, hd]
      exact h.blkEncStep_eq c
    rw [threeBlkSteps, hzero, Flow.andThen_go, hone h1 (by omega), Flow.andThen_go, hone h2 (by omega)]
    exact congrArg Flow.finish (b3EncStep_of_group c h hg)
  | true =>
    have hone {t : State} (ht : t.latch = s.latch) : blkStep c t = blkDecStep c t :=
      if_pos ((State.dec_congr ht).trans hd)
    rw [if_pos rfl, b3DecStep_finish c h.sized hg, threeBlkSteps, hone rfl]
    obtain ⟨hgo, hdone⟩ | hhalt := h.blkDecStep_cases c
    · rw [hgo, Flow.andThen_go, Flow.andThen_go, hone hdone.control.latch]
      have hat := hdone.atMsg h (by omega)
      obtain ⟨hgo1, hdone1⟩ | hhalt1 := hat.blkDecStep_cases c
      · rw [hgo1, Flow.andThen_go, Flow.andThen_go, hone (hdone.trans hdone1).control.latch]
      · rw [hhalt1, Flow.andThen_halt, Flow.andThen_halt]
    · rw [hhalt, Flow.andThen_halt, Flow.andThen_halt]

/-! ## The other micro-operations -/

section Others

variable (c : Setup) {s : State}

theorem chkLenStep_movesOn (hp : s.phase = .check) : (chkLenStep s).MovesOn s := by
  by_cases hshort : s.dec = true ∧ s.latch.inlen.toNat < 16
  · rw [chkLenStep_of_short hshort]
    exact ⟨SameControl.refl s, fun hd => absurd (hd.symm.trans hshort.1) Bool.false_ne_true⟩
  · rw [chkLenStep_of_not_short hshort]
    exact .of_phases (q := .init) hp rfl ⟨rfl, rfl, rfl, rfl, rfl, rfl⟩
      (fun hd => Nat.le_of_not_lt fun hlt => hshort ⟨hd, hlt⟩) trivial (by simp only [stepsLeftIn]; omega)

variable (hlen : s.dec = true → 16 ≤ s.latch.inlen.toNat)
include hlen

theorem initStep_movesOn (hp : s.phase = .init) : (initStep c s).MovesOn s :=
  .of_phases (q := .macSeed) hp rfl ⟨rfl, rfl, rfl, rfl, rfl, rfl⟩ hlen ⟨rfl, rfl, rfl⟩
    (by simp only [stepsLeftIn]; omega)

theorem macSeedStep_movesOn (hp : s.phase = .macSeed) (haidx : s.work.aidx = 0#64)
    (hstart : s.work.idx = 1#64 ∧ s.work.tagpos = 0#64) : (macSeedStep c s).MovesOn s := by
  have hzero : s.work.aidx.toNat = 0 := by rw [haidx]; rfl
  have hr : SameRun s { s with
      work := { s.work with v := encipher c s (s.work.seed ^^^ s.work.da) }
      phase := if s.latch.adlen.toNat = 0 then .macDone else if 0 < s.afull then .macFull else .macFinal } :=
    (macSeedStep_sameControl c s).sameRun
  rw [macSeedStep]
  split_ifs at hr ⊢ with hnone hfull
  · exact .of_phases (q := .macDone) hp rfl hr hlen hstart (by simp only [stepsLeftIn]; omega)
  · exact .of_phases (q := .macFull) hp rfl hr hlen ⟨hzero ▸ hfull, hstart⟩ (by simp only [stepsLeftIn]; omega)
  · exact .of_phases (q := .macFinal) hp rfl hr hlen hstart (by simp only [stepsLeftIn]; omega)

theorem macFullStep_movesOn (hp : s.phase = .macFull) (haidx : s.work.aidx.toNat < s.afull)
    (hstart : s.work.idx = 1#64 ∧ s.work.tagpos = 0#64) : (macFullStep c s).MovesOn s := by
  have hafull : 16 * s.afull ≤ s.latch.adlen.toNat := Nat.mul_div_le _ _
  have hadlen := s.latch.adlen.isLt
  have haddr := adAddr_eq (i := s.work.aidx) (by omega)
  have hsucc : (s.work.aidx + 1#64).toNat = s.work.aidx.toNat + 1 := toNat_add_of_lt (n := 1) (by omega)
  have hdiv : s.latch.adlen.toNat / 16 = s.afull := rfl
  have hstep := macFullStep_of_le c (s := s) (by omega)
  have hr := ((macFullStep_sameControl c s).of_eq_go hstep).sameRun
  rw [hstep]
  rw [hsucc, hdiv] at hr ⊢
  split_ifs at hr ⊢ with hmore
  · exact .of_phases (q := .macFull) hp rfl hr hlen ⟨hsucc.trans_lt hmore, hstart⟩
      (by simp only [stepsLeftIn, hsucc]; omega)
  · exact .of_phases (q := .macFinal) hp rfl hr hlen hstart (by simp only [stepsLeftIn]; omega)

theorem macFinalStep_movesOn (hp : s.phase = .macFinal) (hstart : s.work.idx = 1#64 ∧ s.work.tagpos = 0#64) :
    (macFinalStep c s).MovesOn s := by
  have hstep := macFinalStep_eq c s
  rw [hstep]
  exact .of_phases (q := .macDone) hp rfl ((macFinalStep_sameControl c s).of_eq_go hstep).sameRun hlen hstart
    (by simp only [stepsLeftIn]; omega)

/-- The message starts at block 1, where no tag has passed. -/
theorem macDoneStep_movesOn (hp : s.phase = .macDone) (hstart : s.work.idx = 1#64 ∧ s.work.tagpos = 0#64) :
    (macDoneStep s).MovesOn s := by
  obtain ⟨hidx, htagpos⟩ := hstart
  have hone : s.work.idx.toNat = 1 := by rw [hidx]; rfl
  have htags : s.work.tagpos.toNat = s.tagBytesBefore s.work.idx.toNat := by
    rw [htagpos, hone, State.tagBytesBefore]
    split_ifs <;> rfl
  have hstep := macDoneStep_eq s
  have hr := ((macDoneStep_sameControl s).of_eq_go hstep).sameRun
  rw [hstep]
  split_ifs at hr ⊢ with hmsg
  · exact .of_phases (q := .msg) hp rfl hr hlen ⟨⟨hone.ge, hone.trans_le hmsg⟩, htags⟩
      (by simp only [stepsLeftIn]; omega)
  · exact .of_phases (q := .finOfs) hp rfl hr hlen
      ⟨hone.trans (show 1 = s.nnf + 1 by omega), htags⟩ (by simp only [stepsLeftIn]; omega)

theorem finOfsStep_movesOn (hp : s.phase = .finOfs) (hidx : s.work.idx.toNat = s.nnf + 1)
    (htags : s.work.tagpos.toNat = s.tagBytesBefore s.work.idx.toNat) : (finOfsStep s).MovesOn s := by
  have hstep := finOfsStep_eq s
  have hr := ((finOfsStep_sameControl s).of_eq_go hstep).sameRun
  rw [hstep]
  by_cases hempty : s.nblk = 0
  · exact .of_phases (q := .tag) hp (if_pos hempty) hr hlen trivial (by simp only [stepsLeftIn]; omega)
  · exact .of_phases (q := .final) hp (if_neg hempty) hr hlen ⟨⟨hidx, Nat.pos_of_ne_zero hempty⟩, htags⟩
      (by simp only [stepsLeftIn]; omega)

/-- The final block of the running command (R143, R149). -/
theorem finalStep_movesOn (h : AtFinal s) (hp : s.phase = .final) :
    (if s.dec then finDecStep c s else finEncStep c s).MovesOn s := by
  have hgo {t : State} (ht : SameControl s t) (hq : t.phase = .tag) : GoesOn s t :=
    .of_phases hp hq ht.sameRun hlen trivial (by simp only [stepsLeftIn]; omega)
  split_ifs with hd
  · by_cases htag : TagFits c s.work.idx (dbl s.work.dc) s
    · have hstep := h.finDecStep_eq c hd htag
      rw [hstep]
      exact hgo ((finDecStep_sameControl c s).of_eq_go hstep) rfl
    · rw [finDecStep_of_not_fits c htag]
      exact ⟨(SameControl.refl s).update _ _ _, fun henc => absurd (henc.symm.trans hd) Bool.false_ne_true⟩
  · have hstep := h.finEncStep_eq c (Bool.eq_false_iff.mpr hd)
    rw [hstep]
    exact hgo ((finEncStep_sameControl c s).of_eq_go hstep) rfl

theorem tagGenStep_movesOn (hz : Sized s) (hp : s.phase = .tag) : (tagGenStep c s).MovesOn s := by
  cases hd : s.dec with
  | true =>
    rw [tagGenStep_decrypt c hd]
    exact .of_phases (q := .tagChk) hp rfl ((SameControl.refl s).update _ _ _).sameRun hlen hd
      (by simp only [stepsLeftIn]; omega)
  | false =>
    have hroom : 16 * s.nblk + s.tlen ≤ s.spaceSize .out := by
      rw [s.tag_end, hz.out, hd]
      exact le_rfl
    rw [tagGenStep_encrypt c hd hroom]
    exact ⟨(SameControl.refl s).update _ _ _, fun _ => rfl⟩

theorem tagChkStep_movesOn (hz : Sized s) (hp : s.phase = .tagChk) (hd : s.dec = true) : (tagChkStep s).MovesOn s := by
  have hhalt (st : Status) : (Flow.halt st s).MovesOn s :=
    ⟨SameControl.refl s, fun henc => absurd (henc.symm.trans hd) Bool.false_ne_true⟩
  have hroom : 16 * s.nblk + s.tlen ≤ s.spaceSize .input := by rw [s.tag_end, hz.input, if_pos hd]
  rw [tagChkStep_of_le hroom]
  split_ifs with hmatch hr
  · exact .of_phases (q := .padChk) hp rfl ((SameControl.refl s).update _ _ _).sameRun hlen ⟨hd, hr⟩
      (by simp only [stepsLeftIn]; omega)
  · exact hhalt _
  · exact hhalt _

omit hlen in
theorem padChkStep_movesOn (hd : s.dec = true) : (padChkStep s).MovesOn s :=
  ⟨SameControl.refl s, fun henc => absurd (henc.symm.trans hd) Bool.false_ne_true⟩

end Others

/-! ## The controller's step (R210) -/

/-- The micro-operation of the phase, as a flow. In the message phase a group counts as its three blocks. -/
def phaseFlow (c : Setup) (s : State) : Flow :=
  match s.phase with
  | .idle => .go s
  | .check => chkLenStep s
  | .init => initStep c s
  | .macSeed => macSeedStep c s
  | .macFull => macFullStep c s
  | .macFinal => macFinalStep c s
  | .macDone => macDoneStep s
  | .msg => if s.wide && s.groupReady then threeBlkSteps c s else blkStep c s
  | .finOfs => finOfsStep s
  | .final => if s.dec then finDecStep c s else finEncStep c s
  | .tag => tagGenStep c s
  | .tagChk => tagChkStep s
  | .padChk => padChkStep s

theorem Consistent.decLength_of_phase {s : State} (h : Consistent s) (hb : s.busy = true) (hp : s.phase ≠ .check) :
    s.dec = true → 16 ≤ s.latch.inlen.toNat := fun hd => h.decLength hb hd hp

theorem Consistent.phaseFlow_movesOn (c : Setup) {s : State} (h : Consistent s) (hb : s.busy = true) :
    (phaseFlow c s).MovesOn s := by
  have hlen {p : Phase} (hp : s.phase = p) (hne : p ≠ .check) := h.decLength_of_phase hb (by rwa [hp])
  have hsized {p : Phase} (hp : s.phase = p) (hne : p ≠ .check) : Sized s := h.sized hb (by rwa [hp])
  unfold phaseFlow
  cases hp : s.phase <;> dsimp only
  case idle => exact absurd hp (h.busyIffPhase.mp hb)
  case check => exact chkLenStep_movesOn hp
  case init => exact initStep_movesOn c (hlen hp Phase.noConfusion) hp
  case macSeed =>
    exact macSeedStep_movesOn c (hlen hp Phase.noConfusion) hp (h.macSeed hp) (h.macStart (.inl hp))
  case macFull =>
    exact macFullStep_movesOn c (hlen hp Phase.noConfusion) hp (h.macFull hp) (h.macStart (.inr (.inl hp)))
  case macFinal =>
    exact macFinalStep_movesOn c (hlen hp Phase.noConfusion) hp (h.macStart (.inr (.inr (.inl hp))))
  case macDone =>
    exact macDoneStep_movesOn (hlen hp Phase.noConfusion) hp (h.macStart (.inr (.inr (.inr hp))))
  case msg =>
    have hat := h.atMsg hb hp
    split_ifs with hg
    · have hgroup := hat.inGroup (Bool.and_eq_true_iff.mp hg).2
      exact (hat.threeBlkSteps_delivers c hgroup).movesOn hat hp (hlen hp Phase.noConfusion) (by decide)
    · exact (hat.blkStep_delivers c).movesOn hat hp (hlen hp Phase.noConfusion) (by decide)
  case finOfs =>
    exact finOfsStep_movesOn (hlen hp Phase.noConfusion) hp (h.finOfs hp) (h.tagpos (.inr (.inl hp)))
  case final => exact finalStep_movesOn c (hlen hp Phase.noConfusion) (h.atFinal hb hp) hp
  case tag => exact tagGenStep_movesOn c (hlen hp Phase.noConfusion) (hsized hp Phase.noConfusion) hp
  case tagChk =>
    exact tagChkStep_movesOn (hlen hp Phase.noConfusion) (hsized hp Phase.noConfusion) hp (h.tagChk hp)
  case padChk => exact padChkStep_movesOn (h.padChk hp).1

theorem exec_group (s : State) : exec (if s.dec then .b3Dec else .b3Enc) s =
    (if s.dec then b3DecStep Config.chip s else b3EncStep Config.chip s).finish := by
  split_ifs <;> rfl

theorem exec_block (s : State) : exec (if s.dec then .blkDec else .blkEnc) s = (blkStep Config.chip s).finish := by
  unfold blkStep
  split_ifs <;> rfl

theorem exec_final (s : State) : exec (if s.dec then .finDec else .finEnc) s =
    (if s.dec then finDecStep Config.chip s else finEncStep Config.chip s).finish := by
  split_ifs <;> rfl

/-- The table's instruction is the micro-operation of the phase. -/
theorem Consistent.exec_of_table {s : State} (h : Consistent s) (hb : s.busy = true) :
    ∃ i, sequencerTable s = some i ∧ exec i s = (phaseFlow Config.chip s).finish := by
  unfold sequencerTable phaseFlow
  cases hp : s.phase <;> dsimp only
  case idle => exact absurd hp (h.busyIffPhase.mp hb)
  case msg =>
    refine ⟨_, rfl, ?_⟩
    simp only [← State.groupReady_iff, Bool.and_eq_true]
    by_cases hg : s.wide = true ∧ s.groupReady = true
    · have hat := h.atMsg hb hp
      rw [if_pos hg, if_pos hg]
      exact (exec_group s).trans (hat.group_finish Config.chip (hat.inGroup hg.2))
    · rw [if_neg hg, if_neg hg]
      exact exec_block s
  case final => exact ⟨_, rfl, exec_final s⟩
  all_goals exact ⟨_, rfl, rfl⟩

theorem Consistent.controllerTurn_eq {s : State} (h : Consistent s) (hb : s.busy = true) :
    controllerTurn s = (phaseFlow Config.chip s).finish := by
  obtain ⟨i, htable, hexec⟩ := h.exec_of_table hb
  obtain ⟨u, hu, hd⟩ := issued_of_sequencerTable htable
  exact (controllerTurn_of_busy hb hu hd).trans hexec

/-! ## The invariant -/

/-- Stores stay inside the 64-bit addresses, and forgetting only takes bytes off the lists. -/
theorem canonical_kept : KeptByController fun m => m.wf = true where
  store _ _ ha h := Memory.storeBlock_wf h ha
  forget n k gen h := by
    rw [Memory.wf_iff] at h ⊢
    intro sp
    cases sp with
    | out => exact Buffer.forgetFrom_wf (h .out)
    | tagOut => exact Buffer.forgetFrom_wf (h .tagOut)
    | key => exact h .key
    | nonce => exact h .nonce
    | ad => exact h .ad
    | input => exact h .input
    | tagIn => exact h .tagIn

theorem Consistent.of_idle {s : State} (hword : s.issueWord = none) (hmem : s.mem.wf = true) (hb : s.busy = false)
    (hp : s.phase = .idle) : Consistent s := by
  constructor
  case noIssue => exact hword
  case memWf => exact hmem
  all_goals simp [hb, hp]

theorem Consistent.of_goesOn {s t : State} (h : Consistent s) (hb : s.busy = true) (hgo : GoesOn s t)
    (hmem : t.mem.wf = true) : Consistent t := by
  have hfits {p : Phase} (hp : t.phase = p) : FitsPhase p t := hp ▸ hgo.fits
  have hrun := hgo.run
  have hbusy : t.busy = true := hrun.busy.trans hb
  exact {
    noIssue := hrun.issueWord.trans h.noIssue
    memWf := hmem
    busyIffPhase := iff_of_true hbusy fun hp => hfits hp
    notBusyDone := by
      rw [hrun.busy, hrun.done]
      exact h.notBusyDone
    encLength := by
      rw [hrun.busy, hrun.latch, State.dec_congr hrun.latch]
      exact h.encLength
    decLength := fun _ hd _ => hgo.length hd
    macSeed := fun hp => (hfits hp).1
    macFull := fun hp => (hfits hp).1
    macStart := by
      rintro (hp | hp | hp | hp)
      · exact (hfits hp).2
      · exact (hfits hp).2
      · exact hfits hp
      · exact hfits hp
    msg := fun hp => (hfits hp).1
    finOfs := fun hp => (hfits hp).1
    final := fun hp => (hfits hp).1
    tagpos := by
      rintro (hp | hp | hp)
      · exact (hfits hp).2
      · exact (hfits hp).2
      · exact (hfits hp).2
    tagChk := fun hp => hfits hp
    padChk := fun hp => hfits hp }

/-- HALT ends a command of `s` in `t`, an encrypt command with Success. -/
def Ends (s t : State) : Prop := ∃ st v, t = haltWith st v ∧ SameRun s v ∧ (s.dec = false → st = .success)

theorem Consistent.of_ends {s t : State} (h : Consistent s) (he : Ends s t) (hmem : t.mem.wf = true) : Consistent t := by
  obtain ⟨st, v, rfl, hrun, -⟩ := he
  exact .of_idle (hrun.issueWord.trans h.noIssue) hmem rfl rfl

/-- The controller's turn in a command under way: the command goes on or ends, and the invariant is kept. -/
theorem Consistent.turn_of_busy {s : State} (h : Consistent s) (hb : s.busy = true) :
    ∃ t, controllerTurn s = .next t ∧ Consistent t ∧ (GoesOn s t ∨ Ends s t) := by
  obtain ⟨i, -, hexec⟩ := h.exec_of_table hb
  have hturn := h.controllerTurn_eq hb
  have hmoves := h.phaseFlow_movesOn Config.chip hb
  cases hf : phaseFlow Config.chip s with
  | go t =>
    rw [hf] at hturn hexec hmoves
    exact ⟨t, hturn, h.of_goesOn hb hmoves (exec_keeps canonical_kept h.memWf hexec), .inl hmoves⟩
  | halt st v =>
    rw [hf] at hturn hexec hmoves
    have hends : Ends s (haltWith st v) := ⟨st, v, rfl, hmoves.1.sameRun, hmoves.2⟩
    exact ⟨_, hturn, h.of_ends hends (exec_keeps canonical_kept h.memWf hexec), .inr hends⟩
  | fault r =>
    rw [hf] at hmoves
    exact hmoves.elim

theorem Consistent.controllerTurn {s t : State} (h : Consistent s) (ht : controllerTurn s = .next t) : Consistent t := by
  cases hb : s.busy with
  | true =>
    obtain ⟨u, hu, hcons, -⟩ := h.turn_of_busy hb
    obtain rfl := Host.Outcome.next.inj (hu.symm.trans ht)
    exact hcons
  | false =>
    obtain rfl := Host.Outcome.next.inj ((controllerTurn_of_idle hb).symm.trans ht)
    exact h

theorem Consistent.launch {s t : State} {w : BitVec 3} (h : Consistent s) (ht : launch w s = .next t) : Consistent t := by
  obtain ⟨-, rfl⟩ | ⟨-, hlaunch, rfl⟩ := launch_eq_next.mp ht
  · exact h
  · have hlen := (launchable_iff w s).mp hlaunch
    constructor
    case noIssue => exact h.noIssue
    case memWf => exact h.memWf
    case encLength => exact fun _ hd => hlen.resolve_left fun hw => Bool.false_ne_true (hd.symm.trans hw)
    all_goals simp

/-- A host event keeps the invariant: RESET leaves the idle state, START enters CHECK, and no other event writes what
the invariant speaks of but WRITEBUF, which stays inside the 64-bit addresses. -/
theorem Consistent.hostAct {s t : State} {e : HostEvent} (h : Consistent s) (ht : hostAct e s = .next t) :
    Consistent t := by
  cases e with
  | write reg v =>
    obtain rfl := Host.Outcome.next.inj ht
    split_ifs
    · exact h
    · exact { h with }
  | writeBuf sp a bytes =>
    obtain ⟨-, hroom, rfl⟩ := hostBuffer_eq_next.mp ht
    have hbytes : sp.space.hostBytes ≤ 2 ^ 64 := by cases sp <;> decide
    exact { h with memWf := Memory.write_wf h.memWf (hroom.trans hbytes) }
  | start => exact h.launch ((hostAct_start s).symm.trans ht)
  | read reg =>
    obtain rfl := Host.Outcome.next.inj ht
    exact { h with }
  | readBuf sp a n =>
    obtain ⟨-, -, rfl⟩ := hostBuffer_eq_next.mp ht
    exact { h with }
  | reset =>
    obtain rfl := Host.Outcome.next.inj ht
    exact .of_idle h.noIssue (resetEvent_wf s) rfl rfl

/-- Settles O50: a step is a turn of the controller or a host event, on the state with the turn taken away. -/
theorem stepKeepsConsistent : Obligations.StepKeepsConsistent := by
  intro s t h ht
  have hstep : step s = nextTurn s := by rw [step, stepOnce, h.noIssue]
  rw [hstep, nextTurn.eq_def] at ht
  split at ht
  next => exact h.controllerTurn ht
  next rest _ => exact (h.withInbox rest).controllerTurn ht
  next e rest _ => exact (h.withInbox rest).hostAct ht

/-! ## The bound (R204, R215, R249) -/

theorem Ends.of_run {s t u : State} (hr : SameRun s t) (he : Ends t u) : Ends s u := by
  obtain ⟨st, v, hu, hv, hok⟩ := he
  exact ⟨st, v, hu, hr.trans hv, fun hd => hok ((State.dec_congr hr.latch).trans hd)⟩

/-- The host waits, and so the step is the controller's. -/
theorem step_eq_turn_of_noHost {s : State} (hword : s.issueWord = none) (hin : s.inbox = []) :
    step s = controllerTurn s := by
  rw [step, stepOnce, hword]
  dsimp only
  rw [nextTurn, hin]

/-- The step of a command under way while the host waits. -/
theorem Alone.step_eq_turn {s : State} (h : Alone s) : step s = controllerTurn s :=
  step_eq_turn_of_noHost h.noWord h.noHost

theorem Consistent.stepsLeft_pos {s : State} (h : Consistent s) (hb : s.busy = true) : 0 < s.stepsLeft := by
  unfold State.stepsLeft
  cases hp : s.phase
  case idle => exact absurd hp (h.busyIffPhase.mp hb)
  all_goals
    simp only [stepsLeftIn]
    omega

/-- A command ends within the steps it has left. -/
theorem ends_within {s : State} (n : Nat) (h : Consistent s) (ha : Alone s) (hn : s.stepsLeft ≤ n) :
    ∃ k t, k ≤ n ∧ steps k s = .next t ∧ Ends s t := by
  induction n generalizing s with
  | zero => exact absurd (h.stepsLeft_pos ha.busy) (by omega)
  | succ n ih =>
    obtain ⟨t, ht, hcons, hgo | hend⟩ := h.turn_of_busy ha.busy
    · have hfewer := hgo.fewer
      obtain ⟨k, u, hk, hu, hend⟩ := ih hcons (ha.of_sameRun hgo.run) (by omega)
      refine ⟨k + 1, u, by omega, ?_, hend.of_run hgo.run⟩
      rw [steps, ha.step_eq_turn, ht]
      exact hu
    · refine ⟨1, t, by omega, ?_, hend⟩
      rw [steps, ha.step_eq_turn, ht]
      rfl

/-- Settles O54: a command just started has at most the bound's steps left, and HALT writes what the host reads. -/
theorem commandsHaltWithinTheBound : Obligations.CommandsHaltWithinTheBound := by
  intro s hs
  have hbound : s.stepsLeft = 10 + s.nnf + s.afull := by
    rw [State.stepsLeft, hs.check]
    rfl
  obtain ⟨n, t, hn, ht, st, v, rfl, hrun, hok⟩ := ends_within (10 + s.afull + s.nnf) hs.consistent hs.toAlone (by omega)
  refine ⟨n, _, hn, ht, rfl, rfl, rfl, rfl, fun hd => ?_⟩
  obtain rfl := hok hd
  have hdec : v.dec = false := (State.dec_congr hrun.latch).trans hd
  have hlen := hs.consistent.encLength hs.busy hd
  have houtlen := haltOutlen_encrypt hdec (by rw [hrun.latch]; exact hlen)
  have htags := haltTagoutlen_encrypt hdec
  refine ⟨rfl, ?_, ?_⟩
  · rw [haltWith_outlen, houtlen, State.mlen_congr hrun.latch, State.mlen_encrypt hd]
  · rw [haltWith_tagoutlen, htags, State.periodic_congr hrun.latch, State.nblk_congr hrun.latch, tagBytesUpTo,
      Nat.add_sub_cancel, State.ntag]
    split_ifs <;> rfl

end Sys2Proof.Machine
end

section
/-! PROOFS of the family 46_commands_sequencer.md, third part: two runs side by side (R203, R216, R221 to R224). Two states
do the same where they differ in the `WIDE` bit, in the model's wires and in working registers that the rest of the
command does not read: each micro-operation keeps this relation, a group counting as its three blocks. -/

namespace Sys2Proof.Machine

/-! ## The same command but for `WIDE` -/

/-- The latched words differ in `WIDE` at most (30_encoding.md R81). -/
structure SameButWide (l l' : HostRegs) : Prop where
  decBit : l'.cmd.getLsbD 0 = l.cmd.getLsbD 0
  periodicBit : l'.cmd.getLsbD 1 = l.cmd.getLsbD 1
  adlen : l'.adlen = l.adlen
  inlen : l'.inlen = l.inlen
  taginlen : l'.taginlen = l.taginlen

theorem SameButWide.refl (l : HostRegs) : SameButWide l l := ⟨rfl, rfl, rfl, rfl, rfl⟩

/-- The latches with `WIDE` cleared. -/
def HostRegs.narrow (l : HostRegs) : HostRegs := { l with cmd := l.cmd &&& 0b011#3 }

theorem HostRegs.narrow_sameButWide (l : HostRegs) : SameButWide l l.narrow :=
  ⟨by simp [HostRegs.narrow], by simp [HostRegs.narrow], rfl, rfl, rfl⟩

/-- `s` with other latches, other wires and other working registers. -/
def dressed (l : HostRegs) (p : Ports) (w : Work) (s : State) : State := { s with latch := l, ports := p, work := w }

section Dressed

variable (l : HostRegs) (p : Ports) (w : Work) (s : State)

@[simp] theorem dressed_latch : (dressed l p w s).latch = l := rfl
@[simp] theorem dressed_work : (dressed l p w s).work = w := rfl
@[simp] theorem dressed_mem : (dressed l p w s).mem = s.mem := rfl
@[simp] theorem dressed_phase : (dressed l p w s).phase = s.phase := rfl

/-! The geometry of a command does not depend on `WIDE` (10_state.md R26). -/

variable {l s} (h : SameButWide s.latch l)
include h

theorem dressed_dec : (dressed l p w s).dec = s.dec := h.decBit

theorem dressed_periodic : (dressed l p w s).periodic = s.periodic := h.periodicBit

theorem dressed_mlen : (dressed l p w s).mlen = s.mlen := by
  simp only [State.mlen, dressed_dec p w h, dressed_latch, h.inlen]

theorem dressed_rlen : (dressed l p w s).rlen = s.rlen := by rw [State.rlen, dressed_mlen p w h, State.rlen]

theorem dressed_nblk : (dressed l p w s).nblk = s.nblk := by rw [State.nblk, dressed_mlen p w h, State.nblk]

theorem dressed_nnf : (dressed l p w s).nnf = s.nnf := by rw [State.nnf, dressed_nblk p w h, State.nnf]

theorem dressed_tlen : (dressed l p w s).tlen = s.tlen := by rw [State.tlen, dressed_rlen p w h, State.tlen]

theorem dressed_ntag : (dressed l p w s).ntag = s.ntag := by
  rw [State.ntag, dressed_periodic p w h, dressed_nblk p w h, State.ntag]

theorem dressed_afull : (dressed l p w s).afull = s.afull := by rw [State.afull, dressed_latch, h.adlen, State.afull]

theorem dressed_arlen : (dressed l p w s).arlen = s.arlen := by rw [State.arlen, dressed_latch, h.adlen, State.arlen]

theorem dressed_cadence (i : Len) : (dressed l p w s).cadence i = s.cadence i := by
  rw [State.cadence, dressed_periodic p w h, State.cadence]

theorem dressed_spaceSize (sp : Space) : (dressed l p w s).spaceSize sp = s.spaceSize sp := by
  cases sp <;> simp only [State.spaceSize, dressed_latch, dressed_dec p w h, dressed_mlen p w h, dressed_ntag p w h,
    h.adlen, h.inlen, h.taginlen]

theorem dressed_sized (hz : Sized s) : Sized (dressed l p w s) where
  input := by rw [dressed_spaceSize p w h, dressed_dec p w h, dressed_mlen p w h, hz.input]
  out := by rw [dressed_spaceSize p w h, dressed_dec p w h, dressed_mlen p w h, hz.out]

theorem dressed_atMsg (hs : AtMsg s) (hidx : w.idx = s.work.idx) (htagpos : w.tagpos = s.work.tagpos) :
    AtMsg (dressed l p w s) where
  sized := dressed_sized p w h hs.sized
  pos := by rw [dressed_work, hidx]; exact hs.pos
  le := by rw [dressed_work, hidx, dressed_nnf p w h]; exact hs.le
  tagpos := by
    rw [dressed_work, hidx, htagpos, State.tagBytesBefore_eq, dressed_periodic p w h, ← State.tagBytesBefore_eq]
    exact hs.tagpos

theorem dressed_atFinal (hs : AtFinal s) (hidx : w.idx = s.work.idx) (htagpos : w.tagpos = s.work.tagpos) :
    AtFinal (dressed l p w s) where
  sized := dressed_sized p w h hs.sized
  nonempty := by rw [dressed_nblk p w h]; exact hs.nonempty
  idx := by rw [dressed_work, hidx, dressed_nnf p w h]; exact hs.idx
  tagpos := by
    rw [dressed_work, hidx, htagpos, State.tagBytesBefore_eq, dressed_periodic p w h, ← State.tagBytesBefore_eq]
    exact hs.tagpos

theorem dressed_haltOutlen (st : Status) : haltOutlen st (dressed l p w s) = haltOutlen st s := by
  rw [haltOutlen, dressed_dec p w h, dressed_mlen p w h, haltOutlen]

theorem dressed_haltTagoutlen (st : Status) : haltTagoutlen st (dressed l p w s) = haltTagoutlen st s := by
  rw [haltTagoutlen, dressed_dec p w h, dressed_periodic p w h, dressed_ntag p w h, haltTagoutlen]

/-- HALT does not see the registers, and the wires and the latches stay. -/
theorem haltWith_dressed (st : Status) :
    haltWith st (dressed l p w s) = dressed l p (haltWith st s).work (haltWith st s) := by
  rw [haltWith, dressed_haltOutlen p w h, dressed_haltTagoutlen p w h]
  rfl

end Dressed

/-! ## What the rest of a command does not read -/

/-- `w'` differs from `w` in registers that the MAC steps and all after them write before they read them: `W`, `T`, `PF`,
and the decryption round keys, which an encrypt command does not read at all. -/
def ServesMac (dec : Bool) (w w' : Work) : Prop :=
  ∃ x t pf rkd, w' = { w with w := x, t := t, pf := pf, rkd := rkd } ∧ (dec = true → rkd = w.rkd)

/-- The same from the message on, where `W` is read. -/
def ServesMsg (dec : Bool) (w w' : Work) : Prop :=
  ∃ t pf rkd, w' = { w with t := t, pf := pf, rkd := rkd } ∧ (dec = true → rkd = w.rkd)

/-- The working registers `w'` serve as `w` do from the phase `q` on. PAD.CHK reads `PF`, if there are `r > 0` data bytes
in a partial final block; FIN.DEC has then written it. -/
def Serves (q : Phase) (dec : Bool) (r : Nat) (w w' : Work) : Prop :=
  match q with
  | .check | .init => True
  | .macSeed => ∃ v, ServesMac dec { w with v := v } w'
  | .macFull | .macFinal | .macDone => ServesMac dec w w'
  | .msg | .finOfs | .final => ServesMsg dec w w'
  | .tag => ServesMsg dec w w' ∧ (dec = true → 0 < r → w'.pf = w.pf)
  | .tagChk | .padChk => ∃ pf rkd, w' = { w with pf := pf, rkd := rkd } ∧ (0 < r → pf = w.pf)
  | .idle => w' = w

/-- `s'` does what `s` does, with its own latches and wires. -/
def Twin (l : HostRegs) (p : Ports) (s s' : State) : Prop :=
  SameButWide s.latch l ∧ ∃ w, s' = dressed l p w s ∧ Serves s.phase s.dec s.rlen s.work w

section TwinFields

variable {l : HostRegs} {p : Ports} {s s' : State} (h : Twin l p s s')
include h

theorem Twin.latch_eq : s'.latch = l := by
  obtain ⟨-, w, rfl, -⟩ := h
  rfl

theorem Twin.phase_eq : s'.phase = s.phase := by
  obtain ⟨-, w, rfl, -⟩ := h
  rfl

theorem Twin.busy_eq : s'.busy = s.busy := by
  obtain ⟨-, w, rfl, -⟩ := h
  rfl

theorem Twin.inbox_eq : s'.inbox = s.inbox := by
  obtain ⟨-, w, rfl, -⟩ := h
  rfl

end TwinFields

/-- The same flow on two twins. HALT overwrites the working registers. -/
def Flow.Twins (l : HostRegs) (p : Ports) : Flow → Flow → Prop
  | .go t, .go t' => Twin l p t t'
  | .halt st v, .halt st' v' => st' = st ∧ SameButWide v.latch l ∧ ∃ w, v' = dressed l p w v
  | _, _ => False

theorem Twin.of_phase {l : HostRegs} {p : Ports} {s s' : State} {q : Phase} {w : Work} (hq : s.phase = q)
    (h : SameButWide s.latch l) (hs : s' = dressed l p w s) (hw : Serves q s.dec s.rlen s.work w) : Twin l p s s' :=
  ⟨h, w, hs, hq ▸ hw⟩

section Steps

variable (c : Setup) {l : HostRegs} {p : Ports} {s : State} {w : Work} (h : SameButWide s.latch l)
include h

theorem chkLenStep_twins : (chkLenStep s).Twins l p (chkLenStep (dressed l p w s)) := by
  have hshort : lengthTooShort (dressed l p w s) = lengthTooShort s := by
    rw [lengthTooShort, dressed_dec _ _ h, dressed_latch, h.inlen, lengthTooShort]
  rw [chkLenStep, chkLenStep, hshort]
  split_ifs
  · exact ⟨rfl, h, w, rfl⟩
  · exact ⟨h, w, rfl, trivial⟩

/-- R105: INIT writes every register that the MAC steps read. -/
theorem initStep_twins : (initStep c s).Twins l p (initStep c (dressed l p w s)) := by
  have hdec : (dressed l p w s).dec = s.dec := dressed_dec _ _ h
  have hseed : seedBlock c (dressed l p w s) = seedBlock c s := by
    rw [seedBlock, dressed_periodic _ _ h, seedBlock]
    rfl
  rw [initStep, initStep, hdec, hseed]
  refine .of_phase (q := .macSeed) rfl h rfl ⟨w.v, w.w, w.t, w.pf, _, rfl, fun hd => ?_⟩
  have hs : s.dec = true := hd
  simp only [hs, if_true, dressed_mem]

/-- R130: MAC.SEED writes `V`. -/
theorem macSeedStep_twins (hw : ∃ v, ServesMac s.dec { s.work with v := v } w) :
    (macSeedStep c s).Twins l p (macSeedStep c (dressed l p w s)) := by
  obtain ⟨v, x, t, pf, rkd, rfl, hrkd⟩ := hw
  rw [macSeedStep_eq, macSeedStep_eq, dressed_latch, h.adlen]
  refine ⟨h, { s.work with v := c.bcEnc s.work.rke (s.work.seed ^^^ s.work.da), w := x, t := t, pf := pf, rkd := rkd },
    rfl, ?_⟩
  have hserves : ServesMac s.dec { s.work with v := c.bcEnc s.work.rke (s.work.seed ^^^ s.work.da) } _ :=
    ⟨x, t, pf, rkd, rfl, hrkd⟩
  dsimp only
  split_ifs
  all_goals exact hserves

theorem macFullStep_twins (haidx : s.work.aidx.toNat < s.afull) (hw : ServesMac s.dec s.work w) :
    (macFullStep c s).Twins l p (macFullStep c (dressed l p w s)) := by
  obtain ⟨x, t, pf, rkd, rfl, hrkd⟩ := hw
  have hafull : 16 * s.afull ≤ s.latch.adlen.toNat := Nat.mul_div_le _ _
  have hadlen := s.latch.adlen.isLt
  have haddr := adAddr_eq (i := s.work.aidx) (by omega)
  have hroom : adAddr s.work.aidx + 16 ≤ s.latch.adlen.toNat := by omega
  rw [macFullStep_of_le c hroom, macFullStep_of_le c (by rw [dressed_latch, h.adlen]; exact hroom), dressed_latch, h.adlen]
  refine ⟨h, _, rfl, ?_⟩
  dsimp only
  split_ifs
  all_goals exact ⟨x, t, pf, rkd, rfl, hrkd⟩

theorem macFinalStep_twins (hw : ServesMac s.dec s.work w) :
    (macFinalStep c s).Twins l p (macFinalStep c (dressed l p w s)) := by
  obtain ⟨x, t, pf, rkd, rfl, hrkd⟩ := hw
  rw [macFinalStep_eq, macFinalStep_eq, dressed_afull _ _ h, dressed_arlen _ _ h]
  exact ⟨h, _, rfl, x, t, pf, rkd, rfl, hrkd⟩

/-- R133: MAC.DONE writes `W`. -/
theorem macDoneStep_twins (hw : ServesMac s.dec s.work w) :
    (macDoneStep s).Twins l p (macDoneStep (dressed l p w s)) := by
  obtain ⟨x, t, pf, rkd, rfl, hrkd⟩ := hw
  rw [macDoneStep_eq, macDoneStep_eq, dressed_nnf _ _ h]
  refine ⟨h, _, rfl, ?_⟩
  dsimp only
  split_ifs
  all_goals exact ⟨t, pf, rkd, rfl, hrkd⟩

/-! ### The message (R141 to R151) -/

theorem dressed_tagStored (i : Len) (dc : Block) (hrke : w.rke = s.work.rke) (hw : w.w = s.work.w)
    (htagpos : w.tagpos = s.work.tagpos) : tagStored c i dc (dressed l p w s) = tagStored c i dc s := by
  simp only [tagStored, dressed_cadence p w h, itagValue, encipher, dressed_work, dressed_mem, hrke, hw, htagpos]

theorem dressed_tagFits (i : Len) (dc : Block) (hrke : w.rke = s.work.rke) (hw : w.w = s.work.w)
    (htagpos : w.tagpos = s.work.tagpos) : TagFits c i dc (dressed l p w s) ↔ TagFits c i dc s := by
  simp only [TagFits, dressed_cadence p w h, itagValue, encipher, dressed_work, dressed_mem, dressed_latch, h.taginlen,
    hrke, hw, htagpos]

theorem blkEncEnd_dressed (t pf : Block) (rkd : Sched) :
    blkEncEnd c (dressed l p { s.work with t := t, pf := pf, rkd := rkd } s) =
      dressed l p { (blkEncEnd c s).work with t := t, pf := pf, rkd := rkd } (blkEncEnd c s) := by
  have htag := dressed_tagStored c (w := { s.work with t := t, pf := pf, rkd := rkd }) (p := p) h s.work.idx
    (dbl (dbl s.work.dc)) rfl rfl rfl
  simp only [blkEncEnd, dressed_work, dressed_mem, dressed_cadence _ _ h, dressed_nnf _ _ h, htag]
  rfl

theorem blkDecEnd_dressed (t pf : Block) :
    blkDecEnd c (dressed l p { s.work with t := t, pf := pf } s) =
      dressed l p { (blkDecEnd c s).work with t := t, pf := pf } (blkDecEnd c s) := by
  simp only [blkDecEnd, dressed_work, dressed_mem, dressed_cadence _ _ h, dressed_nnf _ _ h]
  rfl

omit h in
theorem serves_advanced {q : Prop} [Decidable q] {dec : Bool} {r : Nat} {w w' : Work} (hw : ServesMsg dec w w') :
    Serves (if q then .msg else .finOfs) dec r w w' := by
  split_ifs
  · exact hw
  · exact hw

/-- One block of the message. -/
theorem blkStep_twins (hs : AtMsg s) (hw : ServesMsg s.dec s.work w) :
    (blkStep c s).Twins l p (blkStep c (dressed l p w s)) := by
  obtain ⟨t, pf, rkd, rfl, hrkd⟩ := hw
  have hat := dressed_atMsg p { s.work with t := t, pf := pf, rkd := rkd } h hs rfl rfl
  unfold blkStep
  rw [dressed_dec _ _ h]
  by_cases hd : s.dec = true
  · obtain rfl := hrkd hd
    rw [if_pos hd, if_pos hd]
    have hfits := dressed_tagFits c (p := p) (w := { s.work with t := t, pf := pf }) h s.work.idx (dbl (dbl s.work.dc))
      rfl rfl rfl
    by_cases htag : TagFits c s.work.idx (dbl (dbl s.work.dc)) s
    · rw [hs.blkDecStep_eq c htag, hat.blkDecStep_eq c (hfits.mpr htag)]
      exact ⟨h, _, blkDecEnd_dressed c h t pf, serves_advanced ⟨t, pf, _, rfl, fun _ => rfl⟩⟩
    · rw [blkDecStep_of_not_fits c htag, blkDecStep_of_not_fits c (mt hfits.mp htag)]
      exact ⟨rfl, h, _, rfl⟩
  · rw [if_neg hd, if_neg hd, hs.blkEncStep_eq c, hat.blkEncStep_eq c]
    exact ⟨h, _, blkEncEnd_dressed c h t pf rkd, serves_advanced ⟨t, pf, rkd, rfl, fun hdec => absurd hdec hd⟩⟩

theorem finOfsStep_twins (hw : ServesMsg s.dec s.work w) :
    (finOfsStep s).Twins l p (finOfsStep (dressed l p w s)) := by
  obtain ⟨t, pf, rkd, rfl, hrkd⟩ := hw
  rw [finOfsStep_eq, finOfsStep_eq, dressed_mlen _ _ h, dressed_nblk _ _ h]
  by_cases hempty : s.nblk = 0
  · have hmlen : s.mlen = 0 := by
      rw [State.nblk] at hempty
      omega
    have hrlen : s.rlen = 0 := by rw [State.rlen, hmlen]
    exact .of_phase (q := .tag) (if_pos hempty) h rfl
      ⟨⟨t, pf, rkd, rfl, hrkd⟩, fun _ hr => absurd hr (Nat.not_lt.mpr hrlen.le)⟩
  · exact .of_phase (q := .final) (if_neg hempty) h rfl ⟨t, pf, rkd, rfl, hrkd⟩

theorem dressed_finalPlain : finalPlain (dressed l p w s) = finalPlain s := by
  simp only [finalPlain, dressed_rlen p w h, dressed_nnf p w h, dressed_mem]

theorem finEncEnd_dressed (t pf : Block) (rkd : Sched) :
    finEncEnd c (dressed l p { s.work with t := t, pf := pf, rkd := rkd } s) =
      dressed l p { (finEncEnd c s).work with t := t, pf := pf, rkd := rkd } (finEncEnd c s) := by
  have htag := dressed_tagStored c (w := { s.work with t := t, pf := pf, rkd := rkd }) (p := p) h s.work.idx
    (dbl s.work.dc) rfl rfl rfl
  simp only [finEncEnd, dressed_work, dressed_finalPlain h, dressed_cadence _ _ h, dressed_nnf _ _ h, htag]
  rfl

/-- R149: FIN.DEC writes `PF`. -/
theorem finDecEnd_dressed (t pf : Block) :
    finDecEnd c (dressed l p { s.work with t := t, pf := pf } s) =
      dressed l p { (finDecEnd c s).work with t := t } (finDecEnd c s) := by
  simp only [finDecEnd, dressed_work, dressed_mem, dressed_cadence _ _ h, dressed_nnf _ _ h, dressed_tlen _ _ h]
  rfl

theorem finalStep_twins (hs : AtFinal s) (hw : ServesMsg s.dec s.work w) :
    (if s.dec then finDecStep c s else finEncStep c s).Twins l p
      (if (dressed l p w s).dec then finDecStep c (dressed l p w s) else finEncStep c (dressed l p w s)) := by
  obtain ⟨t, pf, rkd, rfl, hrkd⟩ := hw
  have hat := dressed_atFinal p { s.work with t := t, pf := pf, rkd := rkd } h hs rfl rfl
  have hdec := dressed_dec p { s.work with t := t, pf := pf, rkd := rkd } h
  by_cases hd : s.dec = true
  · obtain rfl := hrkd hd
    rw [if_pos hd, if_pos (hdec.trans hd)]
    have hfits := dressed_tagFits c (p := p) (w := { s.work with t := t, pf := pf }) h s.work.idx (dbl s.work.dc)
      rfl rfl rfl
    by_cases htag : TagFits c s.work.idx (dbl s.work.dc) s
    · rw [hs.finDecStep_eq c hd htag, hat.finDecStep_eq c (hdec.trans hd) (hfits.mpr htag)]
      exact ⟨h, _, finDecEnd_dressed c h t pf, ⟨t, _, _, rfl, fun _ => rfl⟩, fun _ _ => rfl⟩
    · rw [finDecStep_of_not_fits c htag, finDecStep_of_not_fits c (mt hfits.mp htag)]
      exact ⟨rfl, h, _, rfl⟩
  · have henc : s.dec = false := Bool.eq_false_iff.mpr hd
    rw [henc, hdec, henc]
    rw [if_neg Bool.false_ne_true, if_neg Bool.false_ne_true, hs.finEncStep_eq c henc, hat.finEncStep_eq c (hdec.trans henc)]
    exact ⟨h, _, finEncEnd_dressed c h t pf rkd, ⟨t, pf, rkd, rfl, fun hdec => absurd hdec hd⟩,
      fun hdec => absurd hdec hd⟩

/-- R146: TAG.GEN writes `T`. -/
theorem tagGenStep_twins (hz : Sized s) (hw : ServesMsg s.dec s.work w)
    (hpf : s.dec = true → 0 < s.rlen → w.pf = s.work.pf) :
    (tagGenStep c s).Twins l p (tagGenStep c (dressed l p w s)) := by
  obtain ⟨t, pf, rkd, rfl, hrkd⟩ := hw
  have hdec := dressed_dec p { s.work with t := t, pf := pf, rkd := rkd } h
  cases hd : s.dec with
  | true =>
    rw [tagGenStep_decrypt c hd, tagGenStep_decrypt c (hdec.trans hd)]
    exact ⟨h, _, rfl, pf, rkd, rfl, hpf hd⟩
  | false =>
    have hroom : 16 * s.nblk + s.tlen ≤ s.spaceSize .out := by
      rw [s.tag_end, hz.out, hd]
      exact le_rfl
    rw [tagGenStep_encrypt c hd hroom, tagGenStep_encrypt c (hdec.trans hd)
      (by rwa [dressed_nblk _ _ h, dressed_tlen _ _ h, dressed_spaceSize _ _ h]), dressed_nblk _ _ h, dressed_tlen _ _ h]
    exact ⟨rfl, h, _, rfl⟩

theorem tagChkStep_twins (hz : Sized s) (hd : s.dec = true)
    (hw : ∃ pf rkd, w = { s.work with pf := pf, rkd := rkd } ∧ (0 < s.rlen → pf = s.work.pf)) :
    (tagChkStep s).Twins l p (tagChkStep (dressed l p w s)) := by
  obtain ⟨pf, rkd, rfl, hpf⟩ := hw
  have hroom : 16 * s.nblk + s.tlen ≤ s.spaceSize .input := by rw [s.tag_end, hz.input, if_pos hd]
  have hmatch (bs : List Byte) :
      tagMatches (dressed l p { s.work with pf := pf, rkd := rkd } s) bs = tagMatches s bs := by
    rw [tagMatches, dressed_tlen _ _ h, tagMatches]
    rfl
  rw [tagChkStep_of_le hroom,
    tagChkStep_of_le (by rwa [dressed_nblk _ _ h, dressed_tlen _ _ h, dressed_spaceSize _ _ h]), hmatch,
    dressed_nblk _ _ h, dressed_tlen _ _ h, dressed_rlen _ _ h, dressed_mem]
  split_ifs
  · exact ⟨h, _, rfl, pf, rkd, rfl, hpf⟩
  · exact ⟨rfl, h, _, rfl⟩
  · exact ⟨rfl, h, _, rfl⟩

theorem padChkStep_twins (hr : 0 < s.rlen)
    (hw : ∃ pf rkd, w = { s.work with pf := pf, rkd := rkd } ∧ (0 < s.rlen → pf = s.work.pf)) :
    (padChkStep s).Twins l p (padChkStep (dressed l p w s)) := by
  obtain ⟨pf, rkd, rfl, hpf⟩ := hw
  obtain rfl := hpf hr
  have hstatus : paddingStatus (dressed l p { s.work with rkd := rkd } s) = paddingStatus s := by
    rw [paddingStatus, dressed_rlen _ _ h, paddingStatus]
    rfl
  exact ⟨hstatus, h, _, rfl⟩

end Steps

/-! ## A group and its three blocks (45_batched3.md R185) -/

theorem Flow.Twins.andThen {l : HostRegs} {p : Ports} {f f' : Flow} {k : State → Flow} (hf : f.Twins l p f')
    (hk : ∀ t t', f = .go t → Twin l p t t' → (k t).Twins l p (k t')) :
    (f.andThen k).Twins l p (f'.andThen k) := by
  cases f <;> cases f'
  case go.go t t' => exact hk t t' rfl hf
  case halt.halt => exact hf
  all_goals exact hf.elim

theorem Twin.servesMsg {l : HostRegs} {p : Ports} {s s' : State} (ht : Twin l p s s') (hp : s.phase = .msg) :
    ∃ w, s' = dressed l p w s ∧ ServesMsg s.dec s.work w := by
  obtain ⟨-, w, hs, hw⟩ := ht
  rw [hp] at hw
  exact ⟨w, hs, hw⟩

theorem AtMsg.twins {l : HostRegs} {p : Ports} {s s' : State} (c : Setup) (h : AtMsg s) (hp : s.phase = .msg)
    (ht : Twin l p s s') : (blkStep c s).Twins l p (blkStep c s') := by
  obtain ⟨w, rfl, hw⟩ := ht.servesMsg hp
  exact blkStep_twins c ht.1 h hw

/-- The group decision of a twin (45_batched3.md R180), but for `WIDE`. -/
theorem Twin.groupReady {l : HostRegs} {p : Ports} {s s' : State} (ht : Twin l p s s') (hp : s.phase = .msg) :
    s'.groupReady = s.groupReady := by
  obtain ⟨w, rfl, t, pf, rkd, rfl, -⟩ := ht.servesMsg hp
  rw [State.groupReady, dressed_nnf _ _ ht.1, State.groupReady]
  rfl

/-- The message phase lasts until the non-final blocks are done. -/
theorem BlocksDone.phase_msg {s t : State} {n : Nat} (h : BlocksDone s n t) (hle : s.work.idx.toNat + n ≤ s.nnf) :
    t.phase = .msg :=
  h.phase.trans (if_pos (by rw [h.idx, State.nnf_congr h.control.latch]; exact hle))

theorem AtMsg.blocksDone_of_go (c : Setup) {s t : State} (h : AtMsg s) (hgo : blkStep c s = .go t) :
    BlocksDone s 1 t := by
  have hdone := h.blkStep_delivers c
  rw [hgo] at hdone
  exact hdone

theorem AtMsg.group_twins {l : HostRegs} {p : Ports} {s s' : State} (c : Setup) (h : AtMsg s) (hg : InGroup s)
    (hp : s.phase = .msg) (ht : Twin l p s s') : (threeBlkSteps c s).Twins l p (threeBlkSteps c s') := by
  have hle := hg.le
  refine (h.twins c hp ht).andThen fun t t' hgo ht' => ?_
  have h1 := h.blocksDone_of_go c hgo
  have hat := h1.atMsg h (by omega)
  refine (hat.twins c (h1.phase_msg (by omega)) ht').andThen fun u u' hgo' hu' => ?_
  have h2 := h1.trans (hat.blocksDone_of_go c hgo')
  exact (h2.atMsg h hle).twins c (h2.phase_msg hle) hu'

/-! ## A step of the controller on twins -/

/-- Every micro-operation, where the group decision is the same. -/
theorem phaseFlow_twins (c : Setup) {l : HostRegs} {p : Ports} {s s' : State} (hs : Consistent s) (hb : s.busy = true)
    (hgroup : s.phase = .msg → (s'.wide && s'.groupReady) = (s.wide && s.groupReady)) (ht : Twin l p s s') :
    (phaseFlow c s).Twins l p (phaseFlow c s') := by
  have hsized (hne : s.phase ≠ .check) : Sized s := hs.sized hb hne
  by_cases hmsg : s.phase = .msg
  · have hat := hs.atMsg hb hmsg
    simp only [phaseFlow, hmsg, ht.phase_eq.trans hmsg, hgroup hmsg]
    split_ifs with hg
    · exact hat.group_twins c (hat.inGroup (Bool.and_eq_true_iff.mp hg).2) hmsg ht
    · exact hat.twins c hmsg ht
  obtain ⟨h, w, rfl, hw⟩ := ht
  unfold phaseFlow
  rw [dressed_phase]
  cases hp : s.phase <;> rw [hp] at hw <;> dsimp only
  case idle => exact absurd hp (hs.busyIffPhase.mp hb)
  case check => exact chkLenStep_twins h
  case init => exact initStep_twins c h
  case macSeed => exact macSeedStep_twins c h hw
  case macFull => exact macFullStep_twins c h (hs.macFull hp) hw
  case macFinal => exact macFinalStep_twins c h hw
  case macDone => exact macDoneStep_twins h hw
  case msg => exact absurd hp hmsg
  case finOfs => exact finOfsStep_twins h hw
  case final => exact finalStep_twins c h (hs.atFinal hb hp) hw
  case tag => exact tagGenStep_twins c h (hsized (by simp [hp])) hw.1 hw.2
  case tagChk => exact tagChkStep_twins h (hsized (by simp [hp])) (hs.tagChk hp) hw
  case padChk => exact padChkStep_twins h (hs.padChk hp).2 hw

/-- HALT leaves twins: it overwrites the registers in which they differ. -/
theorem Flow.Twins.finish {l : HostRegs} {p : Ports} {f f' : Flow} {t : State} (hf : f.Twins l p f')
    (ht : f.finish = .next t) : ∃ t', f'.finish = .next t' ∧ Twin l p t t' := by
  cases f <;> cases f'
  case go.go =>
    obtain rfl := Host.Outcome.next.inj ht
    exact ⟨_, rfl, hf⟩
  case halt.halt st v st' v' =>
    obtain ⟨rfl, h, w, rfl⟩ := hf
    obtain rfl := Host.Outcome.next.inj ht
    exact ⟨_, rfl, .of_phase (q := .idle) rfl h (haltWith_dressed p w h _) rfl⟩
  all_goals exact hf.elim

/-- The twin of a state whose command has ended differs in the latches and in the wires only. -/
theorem Twin.eq_of_done {l : HostRegs} {p : Ports} {t t' : State} (h : Consistent t) (hdone : t.done = true)
    (ht : Twin l p t t') : t' = { t with latch := l, ports := p } := by
  obtain ⟨-, w, rfl, hw⟩ := ht
  have hidle : t.phase = .idle := by
    by_contra hp
    exact h.notBusyDone ⟨h.busyIffPhase.mpr hp, hdone⟩
  rw [hidle] at hw
  obtain rfl : w = t.work := hw
  rfl

/-- In CHECK nothing is read but the latches and what the host wrote. -/
theorem JustStarted.twin {l : HostRegs} {s : State} (h : JustStarted s) (hl : SameButWide s.latch l) (p : Ports) (w : Work) :
    JustStarted (dressed l p w s) ∧ Twin l p s (dressed l p w s) := by
  have hdec := dressed_dec p w hl
  have hcons := h.consistent
  refine ⟨⟨?_, h.alone, h.busy, h.check⟩, .of_phase h.check hl rfl trivial⟩
  constructor
  case noIssue => exact hcons.noIssue
  case memWf => exact hcons.memWf
  case busyIffPhase => exact hcons.busyIffPhase
  case notBusyDone => exact hcons.notBusyDone
  case encLength =>
    intro hb hd
    rw [dressed_latch, hl.inlen]
    exact hcons.encLength hb (hdec.symm.trans hd)
  all_goals simp [h.check]

/-! ## The same command over other registers (R203, R216) -/

/-- The state's own command goes on, is over, or was over before: the latches and the host's silence stay. -/
theorem Consistent.step_alone {s t : State} (h : Consistent s) (hin : s.inbox = []) (ht : step s = .next t) :
    t.latch = s.latch ∧ t.inbox = [] := by
  rw [step_eq_turn_of_noHost h.noIssue hin] at ht
  cases hb : s.busy with
  | false =>
    obtain rfl := Host.Outcome.next.inj ((controllerTurn_of_idle hb).symm.trans ht)
    exact ⟨rfl, hin⟩
  | true =>
    obtain ⟨u, hu, -, hgo | ⟨st, v, rfl, hrun, -⟩⟩ := h.turn_of_busy hb
    · obtain rfl := Host.Outcome.next.inj (hu.symm.trans ht)
      exact ⟨hgo.run.latch, hgo.run.inbox.trans hin⟩
    · obtain rfl := Host.Outcome.next.inj (hu.symm.trans ht)
      exact ⟨hrun.latch, hrun.inbox.trans hin⟩

/-- Twins with the same latches step together. -/
theorem Twin.step_together {l : HostRegs} {p : Ports} {s s' t : State} (hs : Consistent s) (hs' : Consistent s')
    (hin : s.inbox = []) (hl : l = s.latch) (ht : Twin l p s s') (hstep : step s = .next t) :
    ∃ t', step s' = .next t' ∧ Twin l p t t' := by
  have hwide : s'.wide = s.wide := by rw [State.wide, ht.latch_eq, hl, State.wide]
  rw [step_eq_turn_of_noHost hs.noIssue hin] at hstep
  rw [step_eq_turn_of_noHost hs'.noIssue (ht.inbox_eq.trans hin)]
  cases hb : s.busy with
  | false =>
    obtain rfl := Host.Outcome.next.inj ((controllerTurn_of_idle hb).symm.trans hstep)
    exact ⟨s', controllerTurn_of_idle (ht.busy_eq.trans hb), ht⟩
  | true =>
    rw [hs.controllerTurn_eq hb] at hstep
    rw [hs'.controllerTurn_eq (ht.busy_eq.trans hb)]
    exact (phaseFlow_twins Config.chip hs hb (fun hp => by rw [hwide, ht.groupReady hp]) ht).finish hstep

theorem Twin.steps_together {l : HostRegs} {p : Ports} {s s' t : State} (n : Nat) (hs : Consistent s)
    (hs' : Consistent s') (hin : s.inbox = []) (hl : l = s.latch) (ht : Twin l p s s') (hn : steps n s = .next t) :
    ∃ t', steps n s' = .next t' ∧ Twin l p t t' ∧ Consistent t ∧ t.latch = l := by
  induction n generalizing s s' with
  | zero =>
    obtain rfl := Host.Outcome.next.inj hn
    exact ⟨s', rfl, ht, hs, hl.symm⟩
  | succ n ih =>
    rw [steps] at hn
    cases hstep : step s with
    | next u =>
      rw [hstep] at hn
      obtain ⟨u', hstep', hu⟩ := ht.step_together hs hs' hin hl hstep
      obtain ⟨hlatch, hwaits⟩ := hs.step_alone hin hstep
      rw [steps, hstep']
      exact ih (stepKeepsConsistent s u hs hstep) (stepKeepsConsistent s' u' hs' hstep') hwaits (hl.trans hlatch.symm) hu hn
    | fault r => rw [hstep] at hn; cases hn
    | refused r => rw [hstep] at hn; cases hn

theorem AgreeButWork.eq_dressed {s s' : State} (h : AgreeButWork s s') :
    s' = dressed s.latch s'.ports s'.work s := by
  rw [AgreeButWork] at h
  rw [← h]
  rfl

/-- Settles O60: the two states are twins at CHECK, whatever their registers hold, and stay so step by step. -/
theorem earlierCommandsLeaveNothing : Obligations.EarlierCommandsLeaveNothing := by
  intro s s' t n hs hagree hn hdone
  obtain ⟨hs', htwin⟩ := hs.twin (.refl s.latch) s'.ports s'.work
  rw [← hagree.eq_dressed] at hs' htwin
  obtain ⟨t', hn', ht, hcons, hlatch⟩ := htwin.steps_together n hs.consistent hs'.consistent hs.alone rfl hn
  refine ⟨t', hn', ?_⟩
  rw [ht.eq_of_done hcons hdone, ← hlatch]

/-! ## A WIDE command and its sequential counterpart (R221 to R224) -/

theorem Consistent.of_reaches {s t : State} (h : Consistent s) (ht : Reaches s t) : Consistent t := by
  obtain ⟨n, hn⟩ := ht
  induction n generalizing s with
  | zero =>
    obtain rfl := Host.Outcome.next.inj hn
    exact h
  | succ n ih =>
    rw [steps] at hn
    cases hstep : step s with
    | next u =>
      rw [hstep] at hn
      exact ih (stepKeepsConsistent s u h hstep) hn
    | fault r => rw [hstep] at hn; cases hn
    | refused r => rw [hstep] at hn; cases hn

/-- A sequential command in its message phase. -/
structure InSequence (s : State) : Prop where
  consistent : Consistent s
  alone : Alone s
  phase : s.phase = .msg
  narrow : s.wide = false

theorem InSequence.atMsg {s : State} (h : InSequence s) : AtMsg s := h.consistent.atMsg h.alone.busy h.phase

theorem InSequence.step_eq {s : State} (h : InSequence s) : step s = (blkStep Config.chip s).finish := by
  have hflow : phaseFlow Config.chip s = blkStep Config.chip s := by
    simp only [phaseFlow, h.phase, h.narrow, Bool.false_and, if_false, Bool.false_eq_true]
  rw [h.alone.step_eq_turn, h.consistent.controllerTurn_eq h.alone.busy, hflow]

theorem InSequence.next {s t : State} (h : InSequence s) (hgo : blkStep Config.chip s = .go t)
    (hle : s.work.idx.toNat + 1 ≤ s.nnf) : BlocksDone s 1 t ∧ InSequence t := by
  have hdone := h.atMsg.blocksDone_of_go Config.chip hgo
  have hstep : step s = .next t := by rw [h.step_eq, hgo, Flow.finish_go]
  refine ⟨hdone, stepKeepsConsistent s t h.consistent hstep, h.alone.of_sameControl hdone.control, hdone.phase_msg hle, ?_⟩
  rw [State.wide, hdone.control.latch]
  exact h.narrow

/-- One block, then the rest of the flow. -/
theorem InSequence.reaches_andThen {s u : State} {k : State → Flow} (h : InSequence s)
    (hu : ((blkStep Config.chip s).andThen k).finish = .next u)
    (hk : ∀ t, blkStep Config.chip s = .go t → (k t).finish = .next u → Reaches t u) : Reaches s u := by
  have hstep := h.step_eq
  cases hf : blkStep Config.chip s with
  | go t =>
    rw [hf] at hstep hu
    exact .head hstep (hk t hf hu)
  | halt st v =>
    rw [hf] at hstep hu
    exact .of_step (hstep.trans hu)
  | fault r =>
    rw [hf] at hu
    cases hu

/-- A sequential command does a group's three blocks in three steps, or in fewer to a HALT. -/
theorem InSequence.reaches_group {s u : State} (h : InSequence s) (hg : InGroup s)
    (hu : (threeBlkSteps Config.chip s).finish = .next u) : Reaches s u := by
  have hle := hg.le
  refine h.reaches_andThen hu fun t hgo ht => ?_
  obtain ⟨hdone, hseq⟩ := h.next hgo (by omega)
  have hidx := hdone.idx
  have hnnf : t.nnf = s.nnf := State.nnf_congr hdone.control.latch
  refine hseq.reaches_andThen ht fun v hgo' hv => ?_
  obtain ⟨-, hseq'⟩ := hseq.next hgo' (by omega)
  exact .of_step (hseq'.step_eq.trans hv)

/-- A sequential twin comes to where a step of the command leads. -/
theorem Twin.catches_up {l : HostRegs} {p : Ports} {s s' t : State} (hs : Consistent s) (hs' : Consistent s')
    (ha : Alone s) (hnarrow : l.cmd.getLsbD 2 = false) (ht : Twin l p s s') (hstep : controllerTurn s = .next t) :
    ∃ t', Reaches s' t' ∧ Twin l p t t' := by
  have ha' : Alone s' := ⟨hs'.noIssue, ht.inbox_eq.trans ha.noHost, ht.busy_eq.trans ha.busy⟩
  have hwide : s'.wide = false := by rw [State.wide, ht.latch_eq, hnarrow]
  rw [hs.controllerTurn_eq ha.busy] at hstep
  by_cases hgroup : s.phase = .msg ∧ (s.wide && s.groupReady) = true
  · obtain ⟨hmsg, hg⟩ := hgroup
    have hready := (Bool.and_eq_true_iff.mp hg).2
    have hat := hs.atMsg ha.busy hmsg
    have hseq : InSequence s' := ⟨hs', ha', ht.phase_eq.trans hmsg, hwide⟩
    have hflow : phaseFlow Config.chip s = threeBlkSteps Config.chip s := by simp only [phaseFlow, hmsg, hg, if_true]
    rw [hflow] at hstep
    obtain ⟨t', hfin, ht'⟩ := (hat.group_twins Config.chip (hat.inGroup hready) hmsg ht).finish hstep
    exact ⟨t', hseq.reaches_group (hseq.atMsg.inGroup ((ht.groupReady hmsg).trans hready)) hfin, ht'⟩
  · have hsame : s.phase = .msg → (s'.wide && s'.groupReady) = (s.wide && s.groupReady) := fun hmsg => by
      rw [hwide, Bool.false_and, Bool.eq_false_iff.mpr fun hg => hgroup ⟨hmsg, hg⟩]
    obtain ⟨t', hfin, ht'⟩ := (phaseFlow_twins Config.chip hs ha.busy hsame ht).finish hstep
    exact ⟨t', .of_step (by rw [ha'.step_eq_turn, hs'.controllerTurn_eq ha'.busy, hfin]), ht'⟩

/-- A command and its sequential twin both end. -/
theorem Twin.ends_together {l : HostRegs} {p : Ports} {s s' : State} (n : Nat) (hs : Consistent s) (hs' : Consistent s')
    (ha : Alone s) (hnarrow : l.cmd.getLsbD 2 = false) (ht : Twin l p s s') (hn : s.stepsLeft ≤ n) :
    ∃ t t', Reaches s t ∧ Reaches s' t' ∧ Ends s t ∧ Twin l p t t' := by
  induction n generalizing s s' with
  | zero => exact absurd (hs.stepsLeft_pos ha.busy) (by omega)
  | succ n ih =>
    obtain ⟨u, hu, hcons, hnext⟩ := hs.turn_of_busy ha.busy
    have hstep : step s = .next u := ha.step_eq_turn.trans hu
    obtain ⟨u', hreach, htwin⟩ := ht.catches_up hs hs' ha hnarrow hu
    rcases hnext with hgo | hend
    · have hfewer := hgo.fewer
      obtain ⟨t, t', hrun, hrun', hend, htwin'⟩ :=
        ih hcons (hs'.of_reaches hreach) (ha.of_sameRun hgo.run) htwin (by omega)
      exact ⟨t, t', .head hstep hrun, hreach.trans hrun', hend.of_run hgo.run, htwin'⟩
    · exact ⟨u, u', .of_step hstep, hreach, hend, htwin⟩

theorem Ends.done {s t : State} (h : Ends s t) : t.done = true := by
  obtain ⟨st, v, rfl, -⟩ := h
  rfl

theorem Ends.ports {s t : State} (h : Ends s t) : t.ports = s.ports := by
  obtain ⟨st, v, rfl, hrun, -⟩ := h
  exact hrun.ports

/-- Settles O59: the sequential counterpart is a twin at CHECK, and catches up with every group. -/
theorem wideCommandsMatchSequentialOnes : Obligations.WideCommandsMatchSequentialOnes := by
  intro s hs _
  obtain ⟨hs', htwin⟩ := hs.twin s.latch.narrow_sameButWide s.ports s.work
  have hnarrow : s.latch.narrow.cmd.getLsbD 2 = false := by simp [HostRegs.narrow]
  obtain ⟨t, t', ⟨n, hn⟩, ⟨n', hn'⟩, hend, ht⟩ :=
    htwin.ends_together _ hs.consistent hs'.consistent hs.toAlone hnarrow le_rfl
  have heq := ht.eq_of_done (hs.consistent.of_reaches ⟨n, hn⟩) hend.done
  rw [← hend.ports] at heq
  have hdone : t'.done = true := by rw [heq]; exact hend.done
  exact ⟨n, n', t, t', hn, hend.done, hn', hdone, heq⟩

end Sys2Proof.Machine
end

section
/-! PROOFS of the family 70_reset_and_hazards.md. RESET puts the values of R260 in place whatever the state was, a command
that runs included: its step never asks for `BUSY`. -/

namespace Sys2Proof.Machine

/-! ## The counters after RESET (R260) -/

@[simp] theorem resetEvent_work_aidx (s : State) : (resetEvent s).work.aidx = 0#64 := rfl
@[simp] theorem resetEvent_work_idx (s : State) : (resetEvent s).work.idx = 0#64 := rfl
@[simp] theorem resetEvent_work_tagpos (s : State) : (resetEvent s).work.tagpos = 0#64 := rfl

/-! ## The step (R200, R260) -/

/-- RESET is a plain event: no HALT runs, the state busy or not. -/
theorem step_of_resetTurn {rest : List Turn} {s : State} (h : hostTurn .reset rest s) :
    step s = .next (resetEvent { s with inbox := rest }) := step_of_hostTurn h

/-- Settles O20: the step ends in `resetEvent`, whose fields hold the values of R260. -/
theorem resetEventGivesResetValues : Obligations.ResetEventGivesResetValues := fun _ _ hturn =>
  ⟨_, step_of_resetTurn hturn, resetEvent_inbox _, resetEvent_phase _, resetEvent_busy _, resetEvent_done _,
    resetEvent_status _, resetEvent_host _, resetEvent_latch _, resetEvent_outlen _, resetEvent_tagoutlen _,
    resetEvent_reported _, resetEvent_work_aidx _, resetEvent_work_idx _, resetEvent_work_tagpos _, rfl⟩

end Sys2Proof.Machine
end

section
/-! PROOFS of the family other, first part: what every step keeps. The canonical form of the memory (20_memory.md R50) is a
property that the controller keeps; a host event adds WRITEBUF and RESET. -/

namespace Sys2Proof.Machine

/-! ## A property of the memory under a step of the controller -/

theorem runDecoded_keeps {Q : Memory → Prop} (hQ : KeptByController Q) {d : Except DecodeError Instr} {s t : State}
    (hs : Q s.mem) (ht : runDecoded d s = .next t) : Q t.mem := by
  cases d with
  | ok i => exact exec_keeps hQ hs ht
  | error e => cases ht

theorem controllerTurn_keeps {Q : Memory → Prop} (hQ : KeptByController Q) {s t : State} (hs : Q s.mem)
    (ht : controllerTurn s = .next t) : Q t.mem := by
  unfold controllerTurn at ht
  split_ifs at ht
  · split at ht
    next u _ => exact runDecoded_keeps hQ hs ht
    next => exact Host.Outcome.next.inj ht ▸ hs
  · exact Host.Outcome.next.inj ht ▸ hs

/-! ## The canonical form -/

theorem hostBytes_le_addresses (sp : HostWriteSpace) : sp.space.hostBytes ≤ 2 ^ 64 := by
  cases sp <;> decide

/-- WRITEBUF stays inside the 64-bit addresses, RESET forgets every byte, and no other event writes the memory but
through the controller. -/
theorem hostAct_keeps_canonical {e : HostEvent} {s t : State} (hs : s.mem.wf = true) (ht : hostAct e s = .next t) :
    t.mem.wf = true := by
  cases e with
  | write reg v =>
    obtain rfl := Host.Outcome.next.inj ht
    split_ifs
    · exact hs
    · exact hs
  | writeBuf sp a bytes =>
    obtain ⟨-, hroom, rfl⟩ := hostBuffer_eq_next.mp ht
    exact Memory.write_wf hs (hroom.trans (hostBytes_le_addresses sp))
  | start => exact launch_keeps (Q := fun m => m.wf = true) hs ((hostAct_start s).symm.trans ht)
  | read reg => exact Host.Outcome.next.inj ht ▸ hs
  | readBuf sp a n =>
    obtain ⟨-, -, rfl⟩ := hostBuffer_eq_next.mp ht
    exact hs
  | reset => exact Host.Outcome.next.inj ht ▸ resetEvent_wf s

/-- Settles O16: a step runs a decoded word, a turn of the controller or a host event. -/
theorem stepKeepsMemoryCanonical : Obligations.StepKeepsMemoryCanonical := by
  intro s t hs ht
  cases hword : s.issueWord with
  | some w =>
    rw [step_of_issueWord hword] at ht
    exact runDecoded_keeps (s := { s with issueWord := none }) canonical_kept hs ht
  | none =>
    have hstep : step s = nextTurn s := by rw [step, stepOnce, hword]
    rw [hstep, nextTurn.eq_def] at ht
    split at ht
    next => exact controllerTurn_keeps canonical_kept hs ht
    next rest _ => exact controllerTurn_keeps (s := { s with inbox := rest }) canonical_kept hs ht
    next e rest _ => exact hostAct_keeps_canonical (s := { s with inbox := rest }) hs ht

/-- Settles O22: the reset state is idle, and no byte of it is known. -/
theorem resetIsConsistent : Obligations.ResetIsConsistent := .of_idle rfl reset_mem_wf rfl rfl

end Sys2Proof.Machine
end

section
/-! PROOFS of the family other, second part: the closed form of the offsets and the checksum of an encrypt command between
INIT and the final stage (10_state.md R34). Of such a property three things are to be shown, that INIT establishes it,
that it does not read what the MAC steps write, and that one block of the message keeps it; that it then outlives every
step is proved once. -/

namespace Sys2Proof.Machine

/-! ## The phases from INIT to the final stage -/

/-- INIT has run, and the final stage has not begun. -/
def BeforeFinalStage (p : Phase) : Prop :=
  p = .macSeed ∨ p = .macFull ∨ p = .macFinal ∨ p = .macDone ∨ p = .msg ∨ p = .finOfs

theorem not_beforeFinalStage_idle : ¬ BeforeFinalStage .idle := by simp [BeforeFinalStage]

theorem not_beforeFinalStage_check : ¬ BeforeFinalStage .check := by simp [BeforeFinalStage]

theorem not_beforeFinalStage_init : ¬ BeforeFinalStage .init := by simp [BeforeFinalStage]

/-- These phases have FIN.OFS and the steps behind it to come. -/
theorem BeforeFinalStage.le_stepsLeft {s : State} (h : BeforeFinalStage s.phase) : 5 ≤ s.stepsLeft := by
  unfold State.stepsLeft
  obtain hp | hp | hp | hp | hp | hp := h
  all_goals
    simp only [hp, stepsLeftIn]
    omega

/-! ## What such a property has to withstand -/

/-- The latches, the memory and the working registers of `t` are those of `s`, but for the four registers that the MAC
steps write (42_ad_mac.md R130 to R133). -/
structure SameButMac (s t : State) : Prop where
  latch : t.latch = s.latch
  mem : t.mem = s.mem
  work : t.work = { s.work with da := t.work.da, v := t.work.v, w := t.work.w, aidx := t.work.aidx }

/-- INIT establishes the property, the MAC steps do not touch it, and a block of the message keeps it. -/
structure KeptByMessage (Q : State → Prop) : Prop where
  init : ∀ {s t : State}, initStep Config.chip s = .go t → Q t
  mac : ∀ {s t : State}, SameButMac s t → Q s → Q t
  block : ∀ {s t : State}, AtMsg s → blkStep Config.chip s = .go t → Q s → Q t

/-- From FIN.OFS on no step comes back before the final stage. -/
theorem Consistent.not_beforeFinalStage_of_go {s t : State} (h : Consistent s) (hb : s.busy = true) (hleft : s.stepsLeft ≤ 5)
    (ht : phaseFlow Config.chip s = .go t) : ¬ BeforeFinalStage t.phase := fun hp => by
  have hmoves := h.phaseFlow_movesOn Config.chip hb
  rw [ht] at hmoves
  have hfewer := hmoves.fewer
  have hmore := hp.le_stepsLeft
  omega

theorem chkLenStep_go_phase {s t : State} (ht : chkLenStep s = .go t) : t.phase = .init := by
  unfold chkLenStep at ht
  split_ifs at ht
  obtain rfl := Flow.go.inj ht
  rfl

theorem macFullStep_go {c : Setup} {s t : State} (ht : macFullStep c s = .go t) : SameButMac s t := by
  obtain ⟨-, hgo⟩ := inSpace_eq_go.mp ht
  obtain rfl := Flow.go.inj hgo
  exact ⟨rfl, rfl, rfl⟩

section Steps

variable {Q : State → Prop} (hQ : KeptByMessage Q) {s t : State}
include hQ

theorem KeptByMessage.threeBlocks (h : AtMsg s) (hg : InGroup s) (hs : Q s)
    (ht : threeBlkSteps Config.chip s = .go t) : Q t := by
  have hle := hg.le
  obtain ⟨u, hu, hrest⟩ := Flow.andThen_eq_go.mp ht
  obtain ⟨v, hv, hlast⟩ := Flow.andThen_eq_go.mp hrest
  have hatu : AtMsg u := (h.blocksDone_of_go _ hu).atMsg h (by omega)
  have hatv : AtMsg v := ((h.blocksDone_of_go _ hu).trans (hatu.blocksDone_of_go _ hv)).atMsg h (by omega)
  exact hQ.block hatv hlast (hQ.block hatu hv (hQ.block h hu hs))

theorem KeptByMessage.phaseFlow (h : Consistent s) (hb : s.busy = true) (hs : BeforeFinalStage s.phase → Q s)
    (ht : phaseFlow Config.chip s = .go t) (hp' : BeforeFinalStage t.phase) : Q t := by
  have hlate (hleft : s.stepsLeft ≤ 5) : Q t := absurd hp' (h.not_beforeFinalStage_of_go hb hleft ht)
  unfold Machine.phaseFlow at ht
  cases hp : s.phase <;> rw [hp] at ht hs <;> dsimp only at ht
  case idle => exact absurd hp (h.busyIffPhase.mp hb)
  case check => exact absurd (chkLenStep_go_phase ht ▸ hp') not_beforeFinalStage_init
  case init => exact hQ.init ht
  case macSeed => exact hQ.mac (Flow.go.inj ht ▸ ⟨rfl, rfl, rfl⟩) (hs (.inl rfl))
  case macFull => exact hQ.mac (macFullStep_go ht) (hs (.inr (.inl rfl)))
  case macFinal =>
    rw [macFinalStep_eq] at ht
    exact hQ.mac (Flow.go.inj ht ▸ ⟨rfl, rfl, rfl⟩) (hs (.inr (.inr (.inl rfl))))
  case macDone => exact hQ.mac (Flow.go.inj ht ▸ ⟨rfl, rfl, rfl⟩) (hs (.inr (.inr (.inr (.inl rfl)))))
  case msg =>
    have hat := h.atMsg hb hp
    have hQs := hs (.inr (.inr (.inr (.inr (.inl rfl)))))
    split_ifs at ht with hg
    · exact hQ.threeBlocks hat (hat.inGroup (Bool.and_eq_true_iff.mp hg).2) hQs ht
    · exact hQ.block hat ht hQs
  all_goals
    refine hlate ?_
    rw [State.stepsLeft, hp]
    simp only [stepsLeftIn]
    omega

theorem KeptByMessage.controllerTurn (h : Consistent s) (hs : BeforeFinalStage s.phase → Q s)
    (ht : controllerTurn s = .next t) : BeforeFinalStage t.phase → Q t := by
  cases hb : s.busy with
  | false =>
    obtain rfl := Host.Outcome.next.inj ((controllerTurn_of_idle hb).symm.trans ht)
    exact hs
  | true =>
    rw [h.controllerTurn_eq hb] at ht
    obtain hgo | ⟨st, v, -, rfl⟩ := Flow.finish_eq_next.mp ht
    · exact hQ.phaseFlow h hb hs hgo
    · exact fun hp => absurd hp not_beforeFinalStage_idle

/-- A host event either finds or leaves the controller outside these phases, or it leaves alone what the property reads. -/
theorem KeptByMessage.hostAct {e : HostEvent} (h : Consistent s) (hs : BeforeFinalStage s.phase → Q s)
    (ht : hostAct e s = .next t) : BeforeFinalStage t.phase → Q t := by
  cases e with
  | write reg v =>
    obtain rfl := Host.Outcome.next.inj ht
    split_ifs
    · exact hs
    · exact fun hp => hQ.mac (s := s) ⟨rfl, rfl, rfl⟩ (hs hp)
  | writeBuf sp a bytes =>
    obtain ⟨hidle, -, rfl⟩ := hostBuffer_eq_next.mp ht
    have hp : s.phase = .idle := by
      by_contra hne
      exact Bool.false_ne_true (hidle.symm.trans (h.busyIffPhase.mpr hne))
    exact fun hp' => absurd (hp ▸ hp') not_beforeFinalStage_idle
  | start =>
    rw [hostAct_start] at ht
    obtain ⟨-, rfl⟩ | ⟨-, -, rfl⟩ := launch_eq_next.mp ht
    · exact hs
    · exact fun hp => absurd hp not_beforeFinalStage_check
  | read reg =>
    obtain rfl := Host.Outcome.next.inj ht
    exact fun hp => hQ.mac (s := s) ⟨rfl, rfl, rfl⟩ (hs hp)
  | readBuf sp a n =>
    obtain ⟨-, -, rfl⟩ := hostBuffer_eq_next.mp ht
    exact fun hp => hQ.mac (s := s) ⟨rfl, rfl, rfl⟩ (hs hp)
  | reset =>
    obtain rfl := Host.Outcome.next.inj ht
    exact fun hp => absurd hp not_beforeFinalStage_idle

theorem KeptByMessage.step (h : Consistent s) (hs : BeforeFinalStage s.phase → Q s) (ht : step s = .next t) :
    BeforeFinalStage t.phase → Q t := by
  have hinbox (rest : List Turn) : BeforeFinalStage s.phase → Q { s with inbox := rest } :=
    fun hp => hQ.mac (s := s) ⟨rfl, rfl, rfl⟩ (hs hp)
  have hstep : Machine.step s = nextTurn s := by rw [Machine.step, stepOnce, h.noIssue]
  rw [hstep, nextTurn.eq_def] at ht
  split at ht
  next => exact hQ.controllerTurn h hs ht
  next rest _ => exact hQ.controllerTurn (h.withInbox rest) (hinbox rest) ht
  next e rest _ => exact hQ.hostAct (h.withInbox rest) (hinbox rest) ht

end Steps

/-- What a block of the message leaves: block by block, in either direction. -/
theorem AtMsg.blkStep_go {s t : State} (c : Setup) (h : AtMsg s) (ht : blkStep c s = .go t) :
    s.dec = true ∧ t = blkDecEnd c s ∨ s.dec = false ∧ t = blkEncEnd c s := by
  unfold blkStep at ht
  split_ifs at ht with hd
  · obtain ⟨hgo, -⟩ | hhalt := h.blkDecStep_cases c
    · exact .inl ⟨hd, Flow.go.inj (ht.symm.trans hgo)⟩
    · cases ht.symm.trans hhalt
  · exact .inr ⟨Bool.eq_false_iff.mpr hd, Flow.go.inj (ht.symm.trans (h.blkEncStep_eq c))⟩

/-- The block index does not wrap in the message. -/
theorem AtMsg.idx_succ {s : State} (h : AtMsg s) : (s.work.idx + 1#64).toNat = s.work.idx.toNat + 1 := by
  have hle := h.le
  have hlt := s.nnf_lt
  exact toNat_add_of_lt (n := 1) (by omega)

/-! ## The offsets in closed form -/

/-- `DM = 2^(i-1)·L` and `DC = 2^(i-1+c)·3·L` for `i = IDX`, in whatever phase. -/
def OffsetsClosed (s : State) : Prop :=
  s.work.dm = dblPow (s.work.idx.toNat - 1) s.work.l ∧
    s.work.dc = dblPow (s.work.idx.toNat - 1 + s.cadencesBefore s.work.idx.toNat) (tpl s.work.l)

theorem offsetsInClosedForm_iff (s : State) : OffsetsInClosedForm s ↔ (BeforeFinalStage s.phase → OffsetsClosed s) :=
  Iff.rfl

theorem State.cadencesBefore_congr {s t : State} (hl : t.latch = s.latch) (i : Nat) :
    t.cadencesBefore i = s.cadencesBefore i := by
  rw [State.cadencesBefore, State.periodic_congr hl, State.cadencesBefore]

theorem State.cadencesBefore_one (s : State) : s.cadencesBefore 1 = 0 := by
  rw [State.cadencesBefore, Nat.sub_self, Nat.zero_div, ite_self]

/-- A cadence point counts from the next block on (44_colm127.md R160). -/
theorem State.cadencesBefore_succ (s : State) {i : Len} (hpos : 1 ≤ i.toNat) :
    s.cadencesBefore (i.toNat + 1) = if s.cadence i then s.cadencesBefore i.toNat + 1 else s.cadencesBefore i.toNat := by
  unfold State.cadencesBefore State.cadence
  cases s.periodic with
  | false => rfl
  | true =>
    simp only [Bool.true_and, beq_iff_eq, if_true]
    split_ifs <;> omega

/-- Both directions advance the offsets alike: `DC` once more at a cadence point (43_colm0.md R141, R148). -/
theorem AtMsg.offsetsClosed_of_advance {s t : State} (h : AtMsg s) (hs : OffsetsClosed s) (hl : t.latch = s.latch)
    (hreg : t.work.l = s.work.l) (hidx : t.work.idx = s.work.idx + 1#64) (hdm : t.work.dm = dbl s.work.dm)
    (hdc : t.work.dc = if s.cadence s.work.idx then dbl (dbl s.work.dc) else dbl s.work.dc) : OffsetsClosed t := by
  obtain ⟨hsdm, hsdc⟩ := hs
  have hpos := h.pos
  have hpow : s.work.idx.toNat = s.work.idx.toNat - 1 + 1 := by omega
  rw [OffsetsClosed, hreg, hidx, h.idx_succ, State.cadencesBefore_congr hl, s.cadencesBefore_succ hpos, hdm, hdc, hsdm,
    hsdc, Nat.add_sub_cancel]
  generalize s.cadencesBefore s.work.idx.toNat = k
  generalize s.work.idx.toNat - 1 = n at hpow
  rw [hpow]
  refine ⟨rfl, ?_⟩
  split_ifs
  · rw [show n + 1 + (k + 1) = n + k + 1 + 1 by omega]
    rfl
  · rw [Nat.add_right_comm]
    rfl

theorem offsetsClosed_kept : KeptByMessage OffsetsClosed where
  init ht := by
    obtain rfl := Flow.go.inj ht
    refine ⟨rfl, ?_⟩
    dsimp only
    rw [show (1#64).toNat = 1 from rfl, State.cadencesBefore_one]
    rfl
  mac {s t} hsame hs := by
    rw [OffsetsClosed, hsame.work, State.cadencesBefore_congr hsame.latch]
    exact hs
  block {s t} hat ht hs := by
    obtain ⟨-, rfl⟩ | ⟨-, rfl⟩ := hat.blkStep_go _ ht
    · exact hat.offsetsClosed_of_advance hs rfl rfl rfl rfl rfl
    · exact hat.offsetsClosed_of_advance hs rfl rfl rfl rfl rfl

/-- Settles O52: the closed form is a property that INIT establishes and a block keeps. -/
theorem stepKeepsOffsetsInClosedForm : Obligations.StepKeepsOffsetsInClosedForm := fun s t h hs ht =>
  (offsetsInClosedForm_iff t).mpr (offsetsClosed_kept.step h ((offsetsInClosedForm_iff s).mp hs) ht)

/-! ## The checksum of the plaintext -/

/-- `CS` of an encrypt command is the XOR of the plaintext blocks before `IDX`, in whatever phase. -/
def ChecksumMatches (s : State) : Prop := s.dec = false → s.work.cs = inputXor s.mem (s.work.idx.toNat - 1)

theorem checksumOfPlaintext_iff (s : State) :
    ChecksumOfPlaintext s ↔ (BeforeFinalStage s.phase → ChecksumMatches s) :=
  ⟨fun h hp hd => h hd hp, fun h hd hp => h hp hd⟩

theorem inputXor_congr {m m' : Memory} (h : m'.buf .input = m.buf .input) (n : Nat) : inputXor m' n = inputXor m n := by
  induction n with
  | zero => rfl
  | succ n ih => rw [inputXor, ih, Memory.loadBlock_congr h, inputXor]

/-- Neither the intermediate tag nor the ciphertext block of BLK.ENC goes to IN. -/
theorem blkEncEnd_input (c : Setup) (s : State) : (blkEncEnd c s).mem.buf .input = s.mem.buf .input := by
  refine (Memory.buf_write_of_ne _ Space.noConfusion _ _).trans ?_
  unfold tagStored
  split_ifs
  · exact Memory.buf_write_of_ne _ Space.noConfusion _ _
  · rfl

/-- BLK.ENC takes the plaintext block at `IDX` into `CS` (43_colm0.md R141). -/
theorem AtMsg.checksum_blkEncEnd (c : Setup) {s : State} (h : AtMsg s) (hd : s.dec = false) (hs : ChecksumMatches s) :
    ChecksumMatches (blkEncEnd c s) := fun _ => by
  have hpos := h.pos
  have hle := h.le
  have hlt := s.nnf_lt
  have hidx : (blkEncEnd c s).work.idx.toNat - 1 = s.work.idx.toNat - 1 + 1 := by
    rw [show (blkEncEnd c s).work.idx = s.work.idx + 1#64 from rfl, h.idx_succ]
    omega
  have hcs : (blkEncEnd c s).work.cs = s.work.cs ^^^ s.mem.loadBlock .input (blockAddr s.work.idx) := rfl
  rw [hidx, inputXor_congr (blkEncEnd_input c s), hcs, hs hd, blockAddr_eq hpos (by omega), inputXor]

theorem checksumMatches_kept : KeptByMessage ChecksumMatches where
  init ht := by
    obtain rfl := Flow.go.inj ht
    exact fun _ => rfl
  mac {s t} hsame hs hd := by
    rw [hsame.work, hsame.mem]
    exact hs ((State.dec_congr hsame.latch).symm.trans hd)
  block {s t} hat ht hs := by
    obtain ⟨hd, rfl⟩ | ⟨hd, rfl⟩ := hat.blkStep_go _ ht
    · exact fun henc => absurd (hd.symm.trans henc) Bool.noConfusion
    · exact hat.checksum_blkEncEnd _ hd hs

/-- Settles O53: the checksum is a property that INIT establishes and a block keeps. -/
theorem stepKeepsChecksumOfPlaintext : Obligations.StepKeepsChecksumOfPlaintext := fun s t h hs ht =>
  (checksumOfPlaintext_iff t).mpr (checksumMatches_kept.step h ((checksumOfPlaintext_iff s).mp hs) ht)

end Sys2Proof.Machine
end

section
/-! PROOFS of the family other, third part: the field laws of the offset generator (40_gf_offset.md R104), the inverse law of
the two block functions (43_colm0.md R140), a group as three single blocks (45_batched3.md R185) and the rejection of a
changed final tag (60_exceptions.md section 2). -/

namespace Sys2Proof.Machine

/-! ## Linearity (40_gf_offset.md R104) -/

/-- The reduction of a sum is the sum of the reductions. -/
theorem ite_xor_reduction (a b : Bool) (k : Block) :
    (if (a ^^ b) = true then k else 0#128) = (if a then k else 0#128) ^^^ (if b then k else 0#128) := by
  cases a <;> cases b <;> simp

/-- The shift moves each bit by itself, and bit 127 of a sum is the sum of the bits 127. -/
theorem dbl_xor (a b : Block) : dbl (a ^^^ b) = dbl a ^^^ dbl b := by
  rw [dbl, BitVec.shiftLeft_xor_distrib, BitVec.getLsbD_xor, ite_xor_reduction, dbl, dbl]
  ac_rfl

theorem tpl_xor (a b : Block) : tpl (a ^^^ b) = tpl a ^^^ tpl b := by
  simp only [tpl, dbl_xor]
  ac_rfl

theorem sep_xor (a b : Block) : sep (a ^^^ b) = sep a ^^^ sep b := by
  simp only [sep, dbl_xor]
  ac_rfl

/-! Tripling and septupling are sums of doublings, so they commute with doubling and with each other. -/

theorem dbl_tpl (x : Block) : dbl (tpl x) = tpl (dbl x) := dbl_xor ..

theorem dbl_sep (x : Block) : dbl (sep x) = sep (dbl x) := by simp only [sep, dbl_xor]

theorem tpl_sep (x : Block) : tpl (sep x) = sep (tpl x) := by rw [tpl, dbl_sep, ← sep_xor, tpl]

/-- Of the nine terms of the product, those in `2^3·x`, `2^2·x` and `2·x` cancel in pairs. -/
theorem sep_sep (x : Block) : sep (sep x) = dblPow 4 x ^^^ dblPow 2 x ^^^ x := by
  have hpairs (a b d e f : Block) : a ^^^ b ^^^ d ^^^ (b ^^^ d ^^^ e) ^^^ (d ^^^ e ^^^ f) = a ^^^ d ^^^ f := by
    calc a ^^^ b ^^^ d ^^^ (b ^^^ d ^^^ e) ^^^ (d ^^^ e ^^^ f)
        = a ^^^ d ^^^ f ^^^ (b ^^^ b) ^^^ (d ^^^ d) ^^^ (e ^^^ e) := by ac_rfl
      _ = a ^^^ d ^^^ f := by simp only [BitVec.xor_self, BitVec.xor_zero]
  simp only [sep, dbl_xor]
  exact hpairs ..

/-! ## The inverse of doubling (40_gf_offset.md R104 (c)) -/

/-- What the shift to the left drops is bit 127. -/
theorem shiftRight_shiftLeft_one (x : Block) :
    ((x <<< 1) >>> 1) ||| (if x.getLsbD 127 then 1#128 <<< 127 else 0#128) = x := by
  refine BitVec.eq_of_getLsbD_eq fun i hi => ?_
  have htop : (if x.getLsbD 127 then 1#128 <<< 127 else 0#128).getLsbD i = (x.getLsbD 127 && decide (i = 127)) := by
    have hone : (1#128 <<< 127).getLsbD i = decide (i = 127) := by
      revert i
      decide
    cases x.getLsbD 127
    · simp
    · simpa using hone
  rw [BitVec.getLsbD_or, htop, BitVec.getLsbD_ushiftRight, BitVec.getLsbD_shiftLeft, Nat.add_sub_cancel_left]
  obtain rfl | hlt := (Nat.lt_succ_iff.mp hi).eq_or_lt
  · simp
  · simp [show 1 + i < 128 by omega, hlt.ne]

/-- What the shift to the right drops is bit 0. -/
theorem shiftLeft_shiftRight_one {x : Block} (h : x.getLsbD 0 = false) : (x >>> 1) <<< 1 = x := by
  refine BitVec.eq_of_getLsbD_eq fun i hi => ?_
  rw [BitVec.getLsbD_shiftLeft, BitVec.getLsbD_ushiftRight]
  cases i with
  | zero => simpa using h.symm
  | succ i => simp [hi, Nat.add_comm 1 i]

/-- The shift leaves bit 0 free, and the constant sets it. -/
theorem getLsbD_zero_dbl (x : Block) : (dbl x).getLsbD 0 = x.getLsbD 127 := by
  rw [dbl, BitVec.getLsbD_xor, BitVec.getLsbD_shiftLeft]
  cases x.getLsbD 127 <;> rfl

theorem halve_dbl (x : Block) : halve (dbl x) = x := by
  have hshift := shiftRight_shiftLeft_one x
  rw [halve, getLsbD_zero_dbl, dbl]
  cases htop : x.getLsbD 127 with
  | true =>
    rw [htop, if_pos rfl] at hshift
    rw [if_pos rfl, if_pos rfl, xor_cancel_right, hshift]
  | false =>
    rw [htop, if_neg Bool.false_ne_true, BitVec.or_zero] at hshift
    rw [if_neg Bool.false_ne_true, if_neg Bool.false_ne_true, BitVec.xor_zero, hshift]

/-- Bit 127 of the half is bit 0 of the whole. -/
theorem getLsbD_top_halve (y : Block) : (halve y).getLsbD 127 = y.getLsbD 0 := by
  rw [halve]
  cases hlow : y.getLsbD 0 with
  | true => rw [if_pos rfl, BitVec.getLsbD_or]; simp
  | false => rw [if_neg Bool.false_ne_true, BitVec.getLsbD_ushiftRight]; exact BitVec.getLsbD_of_ge _ _ (by decide)

theorem dbl_halve (y : Block) : dbl (halve y) = y := by
  rw [dbl, getLsbD_top_halve, halve]
  cases hlow : y.getLsbD 0 with
  | true =>
    have hfree : (y ^^^ 0x87#128).getLsbD 0 = false := by
      rw [BitVec.getLsbD_xor, hlow]
      rfl
    have hdrop : (1#128 <<< 127) <<< 1 = 0#128 := by decide
    rw [if_pos rfl, if_pos rfl, BitVec.shiftLeft_or_distrib, shiftLeft_shiftRight_one hfree, hdrop, BitVec.or_zero,
      xor_cancel_right]
  | false =>
    rw [if_neg Bool.false_ne_true, if_neg Bool.false_ne_true, shiftLeft_shiftRight_one hlow, BitVec.xor_zero]

/-- Settles O8: linearity gives the first three laws, the last is read off the bits. -/
theorem fieldLawsHold : Obligations.FieldLawsHold :=
  ⟨fun a b => ⟨dbl_xor a b, tpl_xor a b, sep_xor a b⟩, fun x => ⟨dbl_tpl x, dbl_sep x, tpl_sep x⟩, sep_sep,
    fun x => ⟨halve_dbl x, dbl_halve x⟩⟩

/-! ## EncBlock and DecBlock (43_colm0.md R140) -/

section RoundTrip

variable {c : Setup} {key : Block} {s : State} (hrke : s.work.rke = c.ksEnc key)
  (hrkd : s.work.rkd = c.ksDec (c.ksEnc key))
include hrke hrkd

/-- R9 (b): the two round-key files of one key undo each other's pass. -/
theorem decipher_encipher (x : Block) : decipher c s (encipher c s x) = x := by
  rw [decipher, encipher, hrke, hrkd, c.dec_enc]

theorem encipher_decipher (y : Block) : encipher c s (decipher c s y) = y := by
  rw [decipher, encipher, hrke, hrkd, c.enc_dec]

/-- Pass by pass, with R122 for rho between the two. -/
theorem decBlock_encBlock (p : Block) : decBlock c (encBlock c p s).1 s = (p, (encBlock c p s).2) := by
  simp only [decBlock, encBlock, xor_cancel_right, decipher_encipher hrke hrkd, rhoInv_rho]

theorem encBlock_decBlock (x : Block) : encBlock c (decBlock c x s).1 s = (x, (decBlock c x s).2) := by
  simp only [decBlock, encBlock, xor_cancel_right, encipher_decipher hrke hrkd, rho_rhoInv]

end RoundTrip

/-- Settles O45: both compositions are undone pass by pass. -/
theorem blockRoundTrip : Obligations.BlockRoundTrip := fun _ _ _ hrke hrkd =>
  ⟨decBlock_encBlock hrke hrkd, encBlock_decBlock hrke hrkd⟩

/-! ## A group as three single blocks (45_batched3.md R185) -/

/-- One round of `untilHalt` over a flow that leaves the controller busy where it goes on. -/
theorem untilHalt_succ {f : State → Host.Outcome State Fault Refusal} {g k : State → Flow} {n : Nat} {s : State}
    (hf : f s = (g s).finish) (hbusy : ∀ t, g s = .go t → t.phase ≠ .idle)
    (hk : ∀ t, g s = .go t → untilHalt f n t = (k t).finish) :
    untilHalt f (n + 1) s = ((g s).andThen k).finish := by
  rw [untilHalt, hf]
  cases hg : g s with
  | go t => exact (if_neg (hbusy t hg)).trans (hk t hg)
  | halt st v => exact if_pos rfl
  | fault r => rfl

theorem untilHalt_three {f : State → Host.Outcome State Fault Refusal} {g : State → Flow}
    (hf : ∀ s, f s = (g s).finish) (hbusy : ∀ {s t}, g s = .go t → t.phase ≠ .idle) (s : State) :
    untilHalt f 3 s = ((g s).andThen fun t => (g t).andThen g).finish := by
  have hone (t : State) : untilHalt f 1 t = (g t).finish := by
    have hlast := untilHalt_succ (k := .go) (n := 0) (hf t) (fun _ => hbusy) fun _ _ => rfl
    rw [hlast]
    cases g t <;> rfl
  have htwo (t : State) : untilHalt f 2 t = ((g t).andThen g).finish :=
    untilHalt_succ (hf t) (fun _ => hbusy) fun u _ => hone u
  exact untilHalt_succ (hf s) (fun _ => hbusy) fun t _ => htwo t

theorem advanceMsg_phase_ne_idle (n : Len) (s : State) : (advanceMsg n s).phase ≠ .idle := by
  unfold advanceMsg
  dsimp only
  split_ifs
  all_goals exact Phase.noConfusion

/-- A micro-operation whose last statement is the advance of the message phase. -/
theorem phase_ne_idle_of_advance {s t : State} {sp : Space} {a : Nat} {n : Len} {f : Block → Flow}
    {g : Block → State → State}
    (h : loadBlock s sp a (fun x => (f x).andThen fun u => .go (advanceMsg n (g x u))) = .go t) : t.phase ≠ .idle := by
  obtain ⟨-, hstore⟩ := inSpace_eq_go.mp h
  obtain ⟨u, -, hgo⟩ := Flow.andThen_eq_go.mp hstore
  exact Flow.go.inj hgo ▸ advanceMsg_phase_ne_idle _ _

theorem blkEncStep_go_phase {c : Setup} {s t : State} (h : blkEncStep c s = .go t) : t.phase ≠ .idle := by
  obtain ⟨u, -, hload⟩ := Flow.andThen_eq_go.mp h
  exact phase_ne_idle_of_advance hload

theorem blkDecStep_go_phase {c : Setup} {s t : State} (h : blkDecStep c s = .go t) : t.phase ≠ .idle := by
  obtain ⟨u, -, hload⟩ := Flow.andThen_eq_go.mp h
  exact phase_ne_idle_of_advance (g := fun x => accumulate (decBlock c x u).1) hload

/-- The three blocks of a group each lie in the message and find room for their tag. -/
theorem AtMsg.three_blkEncSteps (c : Setup) {s : State} (h : AtMsg s) (hg : InGroup s) :
    ((blkEncStep c s).andThen fun t => (blkEncStep c t).andThen (blkEncStep c)) =
      .go (blkEncEnd c (blkEncEnd c (blkEncEnd c s))) := by
  have hle := hg.le
  have h1 := h.blkEncEnd_done c
  have hat1 := h1.atMsg h (by omega)
  have hat2 := (h1.trans (hat1.blkEncEnd_done c)).atMsg h (by omega)
  rw [h.blkEncStep_eq c, Flow.andThen_go, hat1.blkEncStep_eq c, Flow.andThen_go, hat2.blkEncStep_eq c]

/-- Settles O49: an encrypt group meets no HALT, and a decrypt group raises where one of its three blocks would. -/
theorem groupStepIsThreeBlockSteps : Obligations.GroupStepIsThreeBlockSteps := by
  intro s hpos hle
  have hg : InGroup s := ⟨hpos, hle⟩
  refine ⟨fun hd hlen htags => ?enc, fun hd hlen => ?dec⟩
  case enc =>
    have hz : Sized s := sized_of_lengths (fun _ => hlen) fun hdec => absurd (hd.symm.trans hdec) Bool.false_ne_true
    have hat : AtMsg s := ⟨hz, hpos, by omega, htags⟩
    have hthree := untilHalt_three (f := exec .blkEnc) (g := blkEncStep Config.chip) (fun _ => rfl)
      blkEncStep_go_phase s
    rw [hthree, hat.three_blkEncSteps Config.chip hg]
    exact congrArg Flow.finish (b3EncStep_of_group Config.chip hat hg)
  case dec =>
    have hz : Sized s := sized_of_lengths (fun henc => absurd (henc.symm.trans hd) Bool.false_ne_true) fun _ => hlen
    have hthree := untilHalt_three (f := exec .blkDec) (g := blkDecStep Config.chip) (fun _ => rfl)
      blkDecStep_go_phase s
    exact (b3DecStep_finish Config.chip hz hg).trans hthree.symm

/-! ## A changed final tag (60_exceptions.md section 2) -/

theorem decryptVerdict_of_ne {c : Setup} {rke : Sched} {ch : Chain} {mlen : Nat} {received pf : List Byte}
    (h : received ≠ (bytesOfBlock (ch.tagBlock c rke)).take (tagBytes mlen)) :
    decryptVerdict c rke ch mlen received pf = .tagMismatch := if_neg h

/-- Settles O58: the message part is undone whatever stands behind it, so the tag that the decryption computes is the one
of the encryption, and the received bytes are others. -/
theorem changedFinalTagIsRejected : Obligations.ChangedFinalTagIsRejected := by
  intro c periodic key nonce ad msg tag enc n htaglen hne
  let rke := c.ksEnc (blockOfBytes key)
  let start := startChain c periodic rke nonce ad
  let message := encryptMessage c rke periodic start msg
  let finalTag := (bytesOfBlock (message.chain.tagBlock c rke)).take (tagBytes msg.length)
  have henc : enc = (message.out ++ finalTag, message.tags) := colmEnc_eq c periodic key nonce ad msg
  have hout : message.out.length = n := encryptMessage_out_length c periodic start rke msg
  have hfinal : finalTag.length = tagBytes msg.length := by
    rw [List.length_take, bytesOfBlock_length, min_eq_left (tagBytes_le _)]
  rw [henc] at htaglen hne ⊢
  rw [List.drop_left' hout] at htaglen hne
  rw [List.take_left' hout]
  have hlen : (message.out ++ tag).length = msg.length + 16 := by
    rw [List.length_append, hout, htaglen, hfinal, sixteen_mul_add_tagBytes]
  have hreceived : tag.take (tagBytes msg.length) = tag := List.take_of_length_le (by rw [htaglen, hfinal])
  obtain ⟨pf, -, hmessage⟩ := decryptMessage_encryptMessage c (blockOfBytes key) periodic start msg
  rw [colmDec_eq _ _ _ _ _ _ _ (by omega), hlen, Nat.add_sub_cancel]
  dsimp only
  rw [hmessage tag, List.drop_left' hout, hreceived]
  dsimp only
  rw [decryptVerdict_of_ne hne]
  rfl

end Sys2Proof.Machine
end

section
/-! PROOFS of the family other, fourth part: the MAC steps counted (42_ad_mac.md R130 to R134). From INIT on each step is one
known assignment, one for each full block of the associated data; the counts add up to those of
46_commands_sequencer.md section 2. -/

namespace Sys2Proof.Machine

/-! ## Steps taken one after the other -/

/-- Exactly `n` steps lead from `s` to `t`. -/
def Takes (n : Nat) (s t : State) : Prop := steps n s = .next t

theorem Takes.one {s t : State} (h : step s = .next t) : Takes 1 s t := by
  rw [Takes, steps, h]
  rfl

theorem Takes.head {n : Nat} {s t u : State} (h : step s = .next t) (h' : Takes n t u) : Takes (n + 1) s u := by
  rw [Takes, steps, h]
  exact h'

theorem Takes.tail {n : Nat} {s t u : State} (h : Takes n s t) (h' : step t = .next u) : Takes (n + 1) s u := by
  induction n generalizing s with
  | zero =>
    obtain rfl := Host.Outcome.next.inj h
    exact .one h'
  | succ n ih =>
    rw [Takes, steps] at h
    cases hs : step s with
    | next v =>
      rw [hs] at h
      exact .head hs (ih h)
    | fault r => rw [hs] at h; cases h
    | refused r => rw [hs] at h; cases h

/-! ## The MAC steps (R130 to R133) -/

/-- One step for each full block from `AIDX` on. -/
theorem macFull_takes (n : Nat) {s : State} (h : Alone s) (hp : s.phase = .macFull)
    (hn : s.work.aidx.toNat + (n + 1) = s.afull) :
    ∃ aidx, Takes (n + 1) s (macState s ((blocksFrom s.mem .ad s.work.aidx.toNat (n + 1)).foldl
      (adBlock Config.chip s.work.rke) (s.work.da, s.work.v)) aidx .macFinal) := by
  have hstep := macFull_step h hp (by omega)
  induction n generalizing s with
  | zero =>
    rw [if_neg (by omega)] at hstep
    exact ⟨_, .one hstep⟩
  | succ n ih =>
    have hafull : 16 * s.afull ≤ s.latch.adlen.toNat := Nat.mul_div_le _ _
    have hadlen := s.latch.adlen.isLt
    have hsucc : (s.work.aidx + 1#64).toNat = s.work.aidx.toNat + 1 := toNat_add_of_lt (n := 1) (by omega)
    rw [if_pos (by omega)] at hstep
    let t := macState s (adBlock Config.chip s.work.rke (s.work.da, s.work.v)
      (s.mem.loadBlock .ad (16 * s.work.aidx.toNat))) (s.work.aidx + 1#64) .macFull
    have ht : Alone t := h.macState _ _ _
    have hrest : t.work.aidx.toNat + (n + 1) = t.afull := by
      rw [macState_aidx, macState_afull, hsucc]
      omega
    obtain ⟨aidx, hr⟩ := ih ht rfl hrest (macFull_step ht rfl (by omega))
    rw [macState_aidx, hsucc] at hr
    rw [blocksFrom_succ, List.foldl_cons]
    exact ⟨aidx, .head hstep hr⟩

/-- MAC.SEED and the full blocks, if the associated data is not empty. -/
theorem macBlocks_takes {s : State} (h : Alone s) (hp : s.phase = .macSeed) (haidx : s.work.aidx = 0#64)
    (hne : s.latch.adlen.toNat ≠ 0) :
    ∃ aidx, Takes (s.afull + 1) s (macState s ((blocksFrom s.mem .ad 0 s.afull).foldl (adBlock Config.chip s.work.rke)
      (s.work.da, Config.chip.bcEnc s.work.rke (s.work.seed ^^^ s.work.da))) aidx .macFinal) := by
  have hstep := macSeed_step h hp
  rw [if_neg hne] at hstep
  cases hn : s.afull with
  | zero =>
    rw [if_pos hn] at hstep
    exact ⟨_, .one hstep⟩
  | succ n =>
    rw [if_neg (by omega), haidx] at hstep
    obtain ⟨aidx, hr⟩ := macFull_takes n (h.macState (s.work.da, Config.chip.bcEnc s.work.rke
      (s.work.seed ^^^ s.work.da)) 0#64 .macFull) rfl (by rw [macState_afull, hn, macState_aidx]; exact Nat.zero_add _)
    exact ⟨aidx, .head hstep hr⟩

/-- From MAC.SEED to MAC.DONE: one step more than full blocks, and one more for MAC.FINAL if there is associated data. -/
theorem mac_takes {s : State} (h : Alone s) (hp : s.phase = .macSeed) (hda : s.work.da = tpl s.work.l)
    (haidx : s.work.aidx = 0#64) :
    ∃ da aidx, Takes (1 + s.afull + if s.latch.adlen = 0#64 then 0 else 1) s
      (macState s (da, adMac Config.chip s.work.rke s.work.l s.work.seed
        (s.mem.read .ad 0 s.latch.adlen.toNat)) aidx .macDone) := by
  have hiff : s.latch.adlen = 0#64 ↔ s.latch.adlen.toNat = 0 := BitVec.toNat_inj.symm
  rw [adMac_read]
  by_cases hzero : s.latch.adlen.toNat = 0
  · have hafull : s.afull = 0 := by rw [State.afull, hzero]
    have hstep := macSeed_step h hp
    rw [if_pos hzero, hda] at hstep
    rw [if_pos hzero, if_pos (hiff.mpr hzero), hafull]
    exact ⟨_, _, .one hstep⟩
  · obtain ⟨aidx, hr⟩ := macBlocks_takes h hp haidx hzero
    rw [if_neg hzero, if_neg (mt hiff.mp hzero), ← hda, Nat.add_comm 1]
    exact ⟨_, _, hr.tail (macFinal_step h _ aidx)⟩

/-- Settles O33: INIT, the MAC steps with their count, and MAC.DONE, which moves the value into `W`. -/
theorem macStepsComputeAdMac : Obligations.MacStepsComputeAdMac := by
  intro s h hin hp rke ad
  have halone : Alone s := ⟨h.noIssue, hin, h.busyIffPhase.mpr (by rw [hp]; exact Phase.noConfusion)⟩
  obtain ⟨u, hu, hinit⟩ := init_step halone hp
  obtain ⟨da, aidx, hmac⟩ := mac_takes hinit.alone hinit.phase hinit.da hinit.aidx
  have hdone := macDone_step hinit.alone (da, adMac Config.chip u.work.rke u.work.l u.work.seed
    (u.mem.read .ad 0 u.latch.adlen.toNat)) aidx
  have hrun := (hmac.tail hdone).head hu
  rw [State.afull_congr hinit.latch, hinit.latch] at hrun
  have hcount : 1 + s.afull + (if s.latch.adlen = 0#64 then 0 else 1) + 1 + 1 =
      3 + s.afull + if s.latch.adlen = 0#64 then 0 else 1 := by omega
  rw [hcount] at hrun
  refine ⟨_, hrun, ?w, ?phase, hinit.alone.busy, hinit.mem⟩
  case w =>
    dsimp only [macState]
    rw [hinit.rke, hinit.l, hinit.mem]
    rfl
  case phase =>
    rw [State.nnf_congr hinit.latch]
    rfl

end Sys2Proof.Machine
end
